-- ==== Sys2Proof/Word.lean ====
section
/-! DEFINITION. The machine's two data widths (10_state.md R21, R22; 00_scope.md R6, XLEN = 16). -/

namespace Sys2Proof

/-- An 8-bit value: a byte register half, a memory cell, an 8-bit immediate. -/
abbrev Byte := BitVec 8

/-- A 16-bit value: a register, an offset, a segment, a 16-bit immediate. -/
abbrev Word := BitVec 16

end Sys2Proof
end

