-- ==== Sys2Proof/Config.lean ====
section
/-! DEFINITION. What one construction of the block fixes (00_scope.md R6, 10_state.md R42), and the free values of the
spec: constants with no body, so that nothing can be proved of any one of them (00_scope.md R14, `draw`). -/

namespace Sys2Proof

/-- The attached devices (60_exceptions.md R397). -/
inductive Device
  | intervalTimer
  | interruptController
  | videoAdapter
  deriving DecidableEq, Repr

/-! ### The mode table of the interval timer, a parameter (60_exceptions.md R404, 93_implementation_defined.md U14) -/

/-- What happens to the output at terminal count: it goes high, it goes low for one input clock, or it toggles. -/
inductive TerminalEffect
  | goesHigh
  | lowPulse
  | toggles
  deriving DecidableEq, Repr

/-- The column "gate low". -/
inductive GateLowEffect
  | noEffect
  | suspends
  | forcesHighAndStops
  deriving DecidableEq, Repr

/-- The column "gate rising edge": counting resumes; the output goes low and the count is reloaded; the count is
reloaded and started. -/
inductive GateRiseEffect
  | resumes
  | startsShot
  | restarts
  deriving DecidableEq, Repr

/-- One row of the table. -/
structure PitModeRow where
  initialOutput : Bool
  terminal      : TerminalEffect
  gateLow       : GateLowEffect
  gateRise      : GateRiseEffect
  deriving DecidableEq, Repr

/-- The rows of modes 0 to 5. -/
structure PitTable where
  mode0 : PitModeRow
  mode1 : PitModeRow
  mode2 : PitModeRow
  mode3 : PitModeRow
  mode4 : PitModeRow
  mode5 : PitModeRow
  deriving DecidableEq, Repr

/-- The table as R404 prints it, the Intel 8253's (PRESUMED, log 18). -/
def PitTable.intel8253 : PitTable where
  mode0 := ⟨false, .goesHigh, .suspends, .resumes⟩
  mode1 := ⟨true, .goesHigh, .noEffect, .startsShot⟩
  mode2 := ⟨true, .lowPulse, .forcesHighAndStops, .restarts⟩
  mode3 := ⟨true, .toggles, .forcesHighAndStops, .restarts⟩
  mode4 := ⟨true, .lowPulse, .suspends, .resumes⟩
  mode5 := ⟨true, .lowPulse, .noEffect, .restarts⟩

/-! ### The parameters -/

/-- When the video device scans: in every `deviceCycle()`, or in a vertical-sync timer callback that it registers and
re-registers `periodNS` later (60_exceptions.md R410 allows both; log 29). -/
inductive VideoScan
  | eachCycle
  | verticalSync (periodNS : Rat)
  deriving DecidableEq, Repr

/-- The parameters of 00_scope.md R6, the table of R404, and what R410 leaves to the video device (log 29), fixed at
construction. `pitBase` is the part of PORT_MAP this spec can use: the first of the interval timer's four ports
(60_exceptions.md R401), or none; every other port is unclaimed (93_implementation_defined.md U13). A base above 0xFFFC is accepted and its ports wrap
(DESIGN CHOICE, log 31). It and `devices` are
independent: ports given to a timer that `devices` does not list are answered by it (DESIGN CHOICE, log 28). -/
structure Config where
  memSize          : Nat
  pitBase          : Option Word
  videoBase        : Nat
  videoSize        : Nat
  timeSyncCycles   : Nat
  timerCheckCycles : Nat
  pitPeriodNS      : Rat
  devices          : List Device
  pitTable         : PitTable
  videoScan        : VideoScan
  screenWidth      : Nat
  screenHeight     : Nat
  deriving DecidableEq, Repr

/-- A legal configuration: `1024 <= MEM_SIZE <= 1048576` (10_state.md R42, 60_exceptions.md R352), and the clock
parameters positive (92_eei_decisions.md D31). Nothing else makes one invalid (R352 "otherwise invalid"), a timer base
above 0xFFFC (DESIGN CHOICE, log 31) and a video range that runs past MEM_SIZE (DESIGN CHOICE, log 32) included. -/
def Config.valid (c : Config) : Bool :=
  decide (1024 ≤ c.memSize) && decide (c.memSize ≤ 1048576) && decide (0 < c.timeSyncCycles) &&
    decide (0 < c.timerCheckCycles) && decide (0 < c.pitPeriodNS)

/-- The configuration `State.reset` is constructed with (DESIGN CHOICE and PRESUMED, log 2, log 18, log 29: every field is
OPEN in the spec). No statement rests on these values: a state carries its own configuration (log 1). -/
def Config.standard : Config where
  memSize := 1048576
  pitBase := some 0x0040
  videoBase := 0xB8000
  videoSize := 0x4000
  timeSyncCycles := 8
  timerCheckCycles := 4
  pitPeriodNS := 838
  devices := [.intervalTimer, .interruptController, .videoAdapter]
  pitTable := .intel8253
  videoScan := .verticalSync 16666667
  screenWidth := 640
  screenHeight := 200

/-- `draw_1()`: an unspecified bit (00_scope.md R14), one per index (log 6). -/
opaque Config.freeBit : Nat → Bool

/-- `draw_16()`: an unspecified word, one per index (log 6). -/
opaque Config.freeWord : Nat → Word

/-- An unspecified natural number, used to order due timers (93_implementation_defined.md U8, log 15). -/
opaque Config.freeNat : Nat → Nat

/-- An unspecified rational, used for `hz` where R382 leaves it unspecified (log 6). -/
opaque Config.freeRat : Nat → Rat

/-- A byte read from a count port of the interval timer, one per draw, where `b` is the byte that 60_exceptions.md R402
selects: "a model treats every count read from the interval timer as an unspecified 8-bit value per byte" (R406,
93_implementation_defined.md U12). -/
opaque Config.countByte : (draw : Nat) → (b : Byte) → Byte

/-- A byte of the pixel buffer of a video frame, one per frame and index (60_exceptions.md R410, log 29). -/
opaque Config.freePixel : Nat → Nat → Byte

/-- Numerator of how far the host's clock moved between two calls of `now()` (60_exceptions.md R388, log 8). -/
opaque Config.wallAdvanceNum : Nat → Nat

/-- One less than the denominator of that advance (log 8). -/
opaque Config.wallAdvanceDen : Nat → Nat

end Sys2Proof
end

