-- ==== Sys2Proof/Syntax.lean ====
section
/-! DEFINITION. The instructions: every row of spec/opcode_table.json, with its operands (30_encoding.md R90 to R116).
One constructor per mnemonic, or per semantic rule where the spec gives a mnemonic several (MOV, PUSH, POP, XCHG, JMP,
CALL, RET, RETF, IN, OUT); the constructor's form names the row. Bits that an encoding carries and the instruction
ignores (the 82 alias, the `reg` field of 8F, C6, C7 and ESC) are kept, so that decoding loses nothing (log 12). -/

namespace Sys2Proof

/-- The 16-bit registers, in code order (10_state.md R21). -/
inductive Reg16
  | ax | cx | dx | bx | sp | bp | si | di
  deriving DecidableEq, Repr

/-- The 8-bit register names, in code order (10_state.md R22). -/
inductive Reg8
  | al | cl | dl | bl | ah | ch | dh | bh
  deriving DecidableEq, Repr

/-- The segment registers, in code order (10_state.md R25). -/
inductive SReg
  | es | cs | ss | ds
  deriving DecidableEq, Repr

/-- The values of the repeat latch (10_state.md R34). -/
inductive RepKind
  | repz | repnz
  deriving DecidableEq, Repr

/-- The operand width `w` (30_encoding.md R95). -/
inductive Width
  | byte | word
  deriving DecidableEq, Repr

/-- The base expressions of the effective-address table, in `rm` order (30_encoding.md R104). -/
inductive BaseKind
  | bxSi | bxDi | bpSi | bpDi | si | di | bp | bx
  deriving DecidableEq, Repr

/-- A memory r/m operand (30_encoding.md R104, R105): `mod` = 00 without displacement, the direct address of `mod` = 00
`rm` = 6, `mod` = 01 with a byte, `mod` = 10 with a word. -/
inductive MemOp
  | base   (b : BaseKind)
  | direct (off : Word)
  | disp8  (b : BaseKind) (d : Byte)
  | disp16 (b : BaseKind) (d : Word)
  deriving DecidableEq, Repr

/-- An r/m operand whose register names are of type `R`: `mod` = 11, or memory (30_encoding.md R102). -/
inductive RM (R : Type)
  | reg (r : R)
  | mem (m : MemOp)
  deriving DecidableEq, Repr

/-- An `Eb` operand. -/
abbrev RM8 := RM Reg8

/-- An `Ev` or `Ew` operand (the same width on this machine, 30_encoding.md R100). -/
abbrev RM16 := RM Reg16

/-- The forms of the two-operand family (40_arithmetic.md R143); `ebIbAlt` is opcode 82, which repeats 80
(30_encoding.md R125), and `evIbSx` opcode 83, whose immediate is sign-extended (R108). -/
inductive AluForm
  | ebGb    (e : RM8) (g : Reg8)
  | evGv    (e : RM16) (g : Reg16)
  | gbEb    (g : Reg8) (e : RM8)
  | gvEv    (g : Reg16) (e : RM16)
  | alIb    (i : Byte)
  | axIv    (i : Word)
  | ebIb    (e : RM8) (i : Byte)
  | evIv    (e : RM16) (i : Word)
  | ebIbAlt (e : RM8) (i : Byte)
  | evIbSx  (e : RM16) (i : Byte)
  deriving DecidableEq, Repr

/-- The forms of INC and DEC (40_arithmetic.md R149, R150). -/
inductive IncForm
  | r16 (r : Reg16)
  | eb  (e : RM8)
  | ev  (e : RM16)
  deriving DecidableEq, Repr

/-- The forms of the GRP3 instructions with one operand (40_arithmetic.md R151 to R155, 41_logic_shift.md R184). -/
inductive UnForm
  | eb (e : RM8)
  | ev (e : RM16)
  deriving DecidableEq, Repr

/-- The forms of TEST (41_logic_shift.md R185). -/
inductive TestForm
  | gbEb (g : Reg8) (e : RM8)
  | gvEv (g : Reg16) (e : RM16)
  | alIb (i : Byte)
  | axIv (i : Word)
  | ebIb (e : RM8) (i : Byte)
  | evIv (e : RM16) (i : Word)
  deriving DecidableEq, Repr

/-- The forms of the shifts and rotates: D0, D1 by one, D2, D3 by CL (41_logic_shift.md R186). -/
inductive ShiftForm
  | eb1  (e : RM8)
  | ev1  (e : RM16)
  | ebCl (e : RM8)
  | evCl (e : RM16)
  deriving DecidableEq, Repr

/-- MOV between r/m and register, 88 to 8B (43_data_transfer.md R250). -/
inductive MovForm
  | ebGb (e : RM8) (g : Reg8)
  | evGv (e : RM16) (g : Reg16)
  | gbEb (g : Reg8) (e : RM8)
  | gvEv (g : Reg16) (e : RM16)
  deriving DecidableEq, Repr

/-- MOV immediate to r/m, C6 and C7 with the ignored `reg` field (43_data_transfer.md R251, 30_encoding.md R117). -/
inductive MovImmForm
  | ebIb (ign : BitVec 3) (e : RM8) (i : Byte)
  | evIv (ign : BitVec 3) (e : RM16) (i : Word)
  deriving DecidableEq, Repr

/-- MOV immediate to register, B0 to BF (43_data_transfer.md R252). -/
inductive MovRegImmForm
  | r8  (r : Reg8) (i : Byte)
  | r16 (r : Reg16) (i : Word)
  deriving DecidableEq, Repr

/-- MOV between the accumulator and a direct offset, A0 to A3 (43_data_transfer.md R255). -/
inductive MoffsForm
  | alOb (off : Word)
  | axOv (off : Word)
  | obAl (off : Word)
  | ovAx (off : Word)
  deriving DecidableEq, Repr

/-- XCHG with an r/m operand, 86 and 87 (43_data_transfer.md R256). -/
inductive XchgForm
  | gbEb (g : Reg8) (e : RM8)
  | gvEv (g : Reg16) (e : RM16)
  deriving DecidableEq, Repr

/-- Relative JMP, EB and E9 (42_control_transfer.md R211). -/
inductive JmpRelForm
  | short (rel : Byte)
  | near  (rel : Word)
  deriving DecidableEq, Repr

/-- The instructions. -/
inductive Instr
  -- 40_arithmetic.md and 41_logic_shift.md: two-operand family
  | add (f : AluForm)
  | or  (f : AluForm)
  | adc (f : AluForm)
  | sbb (f : AluForm)
  | and (f : AluForm)
  | sub (f : AluForm)
  | xor (f : AluForm)
  | cmp (f : AluForm)
  | test (f : TestForm)
  -- one-operand arithmetic and logic
  | inc (f : IncForm)
  | dec (f : IncForm)
  | neg (f : UnForm)
  | not (f : UnForm)
  | mul (f : UnForm)
  | imul (f : UnForm)
  | div (f : UnForm)
  | idiv (f : UnForm)
  -- adjust and sign extension
  | daa
  | das
  | aaa
  | aas
  | aam (base : Byte)
  | aad (base : Byte)
  | cbw
  | cwd
  -- shifts and rotates
  | rol (f : ShiftForm)
  | ror (f : ShiftForm)
  | rcl (f : ShiftForm)
  | rcr (f : ShiftForm)
  | shl (f : ShiftForm)
  | shr (f : ShiftForm)
  | sar (f : ShiftForm)
  -- 43_data_transfer.md: moves
  | mov        (f : MovForm)
  | movImm     (f : MovImmForm)
  | movRegImm  (f : MovRegImmForm)
  | movFromSeg (e : RM16) (sw : BitVec 3)
  | movToSeg   (sw : BitVec 3) (e : RM16)
  | movMoffs   (f : MoffsForm)
  | xchg       (f : XchgForm)
  | xchgAx     (r : Reg16)
  | lea (g : Reg16) (e : RM16)
  | lds (g : Reg16) (e : RM16)
  | les (g : Reg16) (e : RM16)
  | xlat
  -- stack
  | pushReg (r : Reg16)
  | pushSeg (sr : SReg)
  | pushRm  (e : RM16)
  | popReg  (r : Reg16)
  | popSeg  (sr : SReg)
  | popRm   (ign : BitVec 3) (e : RM16)
  | pushf
  | popf
  | lahf
  | sahf
  -- 42_control_transfer.md: jumps
  | jmpRel    (f : JmpRelForm)
  | jmpRm     (e : RM16)
  | jmpFar    (off seg : Word)
  | jmpFarMem (e : RM16)
  | jo  (rel : Byte)
  | jno (rel : Byte)
  | jb  (rel : Byte)
  | jnb (rel : Byte)
  | jz  (rel : Byte)
  | jnz (rel : Byte)
  | jbe (rel : Byte)
  | ja  (rel : Byte)
  | js  (rel : Byte)
  | jns (rel : Byte)
  | jpe (rel : Byte)
  | jpo (rel : Byte)
  | jl  (rel : Byte)
  | jge (rel : Byte)
  | jle (rel : Byte)
  | jg  (rel : Byte)
  | loop   (rel : Byte)
  | loopz  (rel : Byte)
  | loopnz (rel : Byte)
  | jcxz   (rel : Byte)
  -- calls and returns
  | callRel    (rel : Word)
  | callRm     (e : RM16)
  | callFar    (off seg : Word)
  | callFarMem (e : RM16)
  | ret
  | retImm  (n : Word)
  | retf
  | retfImm (n : Word)
  -- software interrupts
  | int (n : Byte)
  | int3
  | into
  | iret
  -- 44_string.md
  | movsb
  | movsw
  | cmpsb
  | cmpsw
  | scasb
  | scasw
  | lodsb
  | lodsw
  | stosb
  | stosw
  -- 45_prefix_flag_io_misc.md: prefix instructions
  | segEs
  | segCs
  | segSs
  | segDs
  | repz
  | repnz
  | lock
  -- flag control
  | clc
  | stc
  | cmc
  | cld
  | std
  | cli
  | sti
  -- miscellaneous
  | nop
  | hlt
  | wait
  | esc (op : BitVec 3) (ign : BitVec 3) (e : RM16)
  -- port input and output
  | inImm  (w : Width) (port : Byte)
  | inDx   (w : Width)
  | outImm (w : Width) (port : Byte)
  | outDx  (w : Width)
  -- unimplemented encodings (30_encoding.md R118): an opcode byte, or a group opcode with its addressing byte
  | unimplOp    (op : Byte)
  | unimplGroup (op : Byte) (m : Byte)
  deriving DecidableEq, Repr

end Sys2Proof
end

