-- ==== Sys2Proof/WellFormed.lean ====
section
/-! DEFINITION. Which terms of Instr an encoding stands for: the few that the operand types alone do not rule out. -/

namespace Sys2Proof

/-- `mod` = 00 with `rm` = 6 is the direct address, so BP alone is no base without a displacement (30_encoding.md R104). -/
def MemOp.wf : MemOp → Bool
  | .base b     => b != .bp
  | .direct _   => true
  | .disp8 _ _  => true
  | .disp16 _ _ => true

def RM.wf {R : Type} : RM R → Bool
  | .reg _ => true
  | .mem m => m.wf

def AluForm.wf : AluForm → Bool
  | .ebGb e _ => e.wf
  | .evGv e _ => e.wf
  | .gbEb _ e => e.wf
  | .gvEv _ e => e.wf
  | .alIb _ => true
  | .axIv _ => true
  | .ebIb e _ => e.wf
  | .evIv e _ => e.wf
  | .ebIbAlt e _ => e.wf
  | .evIbSx e _ => e.wf

def IncForm.wf : IncForm → Bool
  | .r16 _ => true
  | .eb e => e.wf
  | .ev e => e.wf

def UnForm.wf : UnForm → Bool
  | .eb e => e.wf
  | .ev e => e.wf

def TestForm.wf : TestForm → Bool
  | .gbEb _ e => e.wf
  | .gvEv _ e => e.wf
  | .alIb _ => true
  | .axIv _ => true
  | .ebIb e _ => e.wf
  | .evIv e _ => e.wf

def ShiftForm.wf : ShiftForm → Bool
  | .eb1 e => e.wf
  | .ev1 e => e.wf
  | .ebCl e => e.wf
  | .evCl e => e.wf

def MovForm.wf : MovForm → Bool
  | .ebGb e _ => e.wf
  | .evGv e _ => e.wf
  | .gbEb _ e => e.wf
  | .gvEv _ e => e.wf

def MovImmForm.wf : MovImmForm → Bool
  | .ebIb _ e _ => e.wf
  | .evIv _ e _ => e.wf

def XchgForm.wf : XchgForm → Bool
  | .gbEb _ e => e.wf
  | .gvEv _ e => e.wf

/-- The unimplemented opcode bytes (30_encoding.md R118, 92_eei_decisions.md D22): 0F, 60 to 6F, C0, C1, C8, C9, D6, F1. -/
def unimplementedOpcodes : List Byte :=
  [0x0F, 0x60, 0x61, 0x62, 0x63, 0x64, 0x65, 0x66, 0x67, 0x68, 0x69, 0x6A, 0x6B, 0x6C, 0x6D, 0x6E, 0x6F,
    0xC0, 0xC1, 0xC8, 0xC9, 0xD6, 0xF1]

/-- The unimplemented slots of the group opcodes, by opcode byte and `reg` field: GRP2 /6, GRP3 /1, GRP4 /2 to /7,
GRP5 /7 (30_encoding.md R116, R118). -/
def unimplementedSlot (op : Byte) (reg : BitVec 3) : Bool :=
  if op = 0xD0 ∨ op = 0xD1 ∨ op = 0xD2 ∨ op = 0xD3 then reg == 6
  else if op = 0xF6 ∨ op = 0xF7 then reg == 1
  else if op = 0xFE then decide (2 ≤ reg.toNat)
  else if op = 0xFF then reg == 7
  else false

/-- The terms an encoding of 30_encoding.md R115, R116 stands for. -/
def Instr.wf : Instr → Bool
  | .add f | .or f | .adc f | .sbb f | .and f | .sub f | .xor f | .cmp f => f.wf
  | .test f => f.wf
  | .inc f | .dec f => f.wf
  | .neg f | .not f | .mul f | .imul f | .div f | .idiv f => f.wf
  | .daa | .das | .aaa | .aas | .aam _ | .aad _ | .cbw | .cwd => true
  | .rol f | .ror f | .rcl f | .rcr f | .shl f | .shr f | .sar f => f.wf
  | .mov f => f.wf
  | .movImm f => f.wf
  | .movRegImm _ => true
  | .movFromSeg e _ => e.wf
  | .movToSeg _ e => e.wf
  | .movMoffs _ => true
  | .xchg f => f.wf
  -- 90 is NOP, not an exchange of AX with itself (45_prefix_flag_io_misc.md R321)
  | .xchgAx r => r != .ax
  | .lea _ e | .lds _ e | .les _ e => e.wf
  | .xlat => true
  | .pushReg _ | .pushSeg _ => true
  | .pushRm e => e.wf
  | .popReg _ => true
  -- the slot of POP CS, byte 0F, is unimplemented (43_data_transfer.md R266)
  | .popSeg sr => sr != .cs
  | .popRm _ e => e.wf
  | .pushf | .popf | .lahf | .sahf => true
  | .jmpRel _ => true
  | .jmpRm e => e.wf
  | .jmpFar _ _ => true
  | .jmpFarMem e => e.wf
  | .jo _ | .jno _ | .jb _ | .jnb _ | .jz _ | .jnz _ | .jbe _ | .ja _ => true
  | .js _ | .jns _ | .jpe _ | .jpo _ | .jl _ | .jge _ | .jle _ | .jg _ => true
  | .loop _ | .loopz _ | .loopnz _ | .jcxz _ => true
  | .callRel _ => true
  | .callRm e => e.wf
  | .callFar _ _ => true
  | .callFarMem e => e.wf
  | .ret | .retImm _ | .retf | .retfImm _ => true
  | .int _ | .int3 | .into | .iret => true
  | .movsb | .movsw | .cmpsb | .cmpsw | .scasb | .scasw | .lodsb | .lodsw | .stosb | .stosw => true
  | .segEs | .segCs | .segSs | .segDs | .repz | .repnz | .lock => true
  | .clc | .stc | .cmc | .cld | .std | .cli | .sti => true
  | .nop | .hlt | .wait => true
  | .esc _ _ e => e.wf
  | .inImm _ _ | .inDx _ | .outImm _ _ | .outDx _ => true
  | .unimplOp op => unimplementedOpcodes.contains op
  | .unimplGroup op m => unimplementedSlot op (m.extractLsb' 3 3)

end Sys2Proof
end

