-- ==== Sys2Proof/Decode.lean ====
section
/-! DEFINITION. Bytes to instructions and back: 30_encoding.md R90 to R125, the opcode map of R115 and the group tables
of R116. Decoding is total: every byte string long enough gives an instruction (an unimplemented encoding is one), and a
shorter one is rejected by name. The encoder is written from the same tables. -/

namespace Sys2Proof

/-- Why bytes are no instruction. `truncated`: the list ends inside the instruction; safe, and unreachable from `step`,
which gives the decoder the longest instruction's six bytes (log 11). -/
inductive DecodeError
  | truncated
  deriving DecidableEq, Repr

/-! ### Bytes and words (20_memory.md R65) -/

/-- The word whose low byte is `lo` and high byte `hi`. -/
def wordOfBytes (lo hi : Byte) : Word := hi ++ lo

def loByte (v : Word) : Byte := v.extractLsb' 0 8

def hiByte (v : Word) : Byte := v.extractLsb' 8 8

/-! ### Register codes (10_state.md R21, R22, R25; 30_encoding.md R104) -/

def Reg16.code : Reg16 → BitVec 3
  | .ax => 0 | .cx => 1 | .dx => 2 | .bx => 3 | .sp => 4 | .bp => 5 | .si => 6 | .di => 7

def Reg16.ofCode (c : BitVec 3) : Reg16 :=
  match c.toNat with
  | 0 => .ax | 1 => .cx | 2 => .dx | 3 => .bx | 4 => .sp | 5 => .bp | 6 => .si | _ => .di

def Reg8.code : Reg8 → BitVec 3
  | .al => 0 | .cl => 1 | .dl => 2 | .bl => 3 | .ah => 4 | .ch => 5 | .dh => 6 | .bh => 7

def Reg8.ofCode (c : BitVec 3) : Reg8 :=
  match c.toNat with
  | 0 => .al | 1 => .cl | 2 => .dl | 3 => .bl | 4 => .ah | 5 => .ch | 6 => .dh | _ => .bh

def SReg.code : SReg → BitVec 2
  | .es => 0 | .cs => 1 | .ss => 2 | .ds => 3

def SReg.ofCode (c : BitVec 2) : SReg :=
  match c.toNat with
  | 0 => .es | 1 => .cs | 2 => .ss | _ => .ds

/-- The segment register an `Sw` operand selects; none for `reg` = 4 to 7 (30_encoding.md R107, R123). -/
def SReg.ofSw (sw : BitVec 3) : Option SReg :=
  if sw.toNat < 4 then some (SReg.ofCode (sw.extractLsb' 0 2)) else none

def BaseKind.code : BaseKind → BitVec 3
  | .bxSi => 0 | .bxDi => 1 | .bpSi => 2 | .bpDi => 3 | .si => 4 | .di => 5 | .bp => 6 | .bx => 7

def BaseKind.ofCode (c : BitVec 3) : BaseKind :=
  match c.toNat with
  | 0 => .bxSi | 1 => .bxDi | 2 => .bpSi | 3 => .bpDi | 4 => .si | 5 => .di | 6 => .bp | _ => .bx

/-- The word register a byte register is half of (10_state.md R22). -/
def Reg8.word : Reg8 → Reg16
  | .al | .ah => .ax
  | .cl | .ch => .cx
  | .dl | .dh => .dx
  | .bl | .bh => .bx

/-- Whether it is the high half. -/
def Reg8.isHigh : Reg8 → Bool
  | .al | .cl | .dl | .bl => false
  | .ah | .ch | .dh | .bh => true

/-- The default segment of a base: SS for the BP forms (R106). -/
def BaseKind.seg : BaseKind → SReg
  | .bpSi | .bpDi | .bp => .ss
  | .bxSi | .bxDi | .si | .di | .bx => .ds

/-- `EAseg` (R106). -/
def MemOp.seg : MemOp → SReg
  | .base b => b.seg
  | .direct _ => .ds
  | .disp8 b _ => b.seg
  | .disp16 b _ => b.seg

def RM.map {R S : Type} (f : R → S) : RM R → RM S
  | .reg r => .reg (f r)
  | .mem m => .mem m

/-! ### Fields (30_encoding.md R91, R92) -/

/-- `mod = m[7:6]`. -/
def modField (m : Byte) : BitVec 2 := m.extractLsb' 6 2

/-- `reg = m[5:3]`. -/
def regField (m : Byte) : BitVec 3 := m.extractLsb' 3 3

/-- `rm = m[2:0]`. -/
def rmField (m : Byte) : BitVec 3 := m.extractLsb' 0 3

/-- `op[7:3]`, the row of eight opcodes. -/
def opRow (op : Byte) : BitVec 5 := op.extractLsb' 3 5

/-- `op[2:0]`, the opcode's place in its row. -/
def opLow (op : Byte) : BitVec 3 := op.extractLsb' 0 3

/-- The decode record of 10_state.md R36: what one `decode()` produces. `prefixByte` is always 0x00 (90_conflicts.md
C4). -/
structure DecodeRecord where
  opcode     : Byte
  modrm      : Byte
  prefixByte : Byte
  primary    : BitVec 6
  d          : Bool
  w          : Bool
  mod        : BitVec 2
  reg        : BitVec 3
  rm         : BitVec 3
  deriving DecidableEq, Repr

/-- The record of an opcode byte and the byte after it (30_encoding.md R91 to R93). -/
def decodeRecord (op m : Byte) : DecodeRecord where
  opcode := op
  modrm := m
  prefixByte := 0x00
  primary := op.extractLsb' 2 6
  d := op.getLsbD 1
  w := op.getLsbD 0
  mod := modField m
  reg := regField m
  rm := rmField m

/-! ### Operand bytes -/

def takeByte : List Byte → Except DecodeError (Byte × List Byte)
  | b :: bs => .ok (b, bs)
  | [] => .error .truncated

/-- A 16-bit item, low byte first (20_memory.md R65). -/
def takeWord : List Byte → Except DecodeError (Word × List Byte)
  | lo :: hi :: bs => .ok (wordOfBytes lo hi, bs)
  | _ => .error .truncated

/-- The r/m operand of addressing byte `m`, with its displacement bytes taken from `bs` (30_encoding.md R104, R105). -/
def takeRm (m : Byte) (bs : List Byte) : Except DecodeError (RM (BitVec 3) × List Byte) :=
  match (modField m).toNat with
  | 0 =>
    if rmField m = 6 then do
      let (off, bs) ← takeWord bs
      .ok (.mem (.direct off), bs)
    else .ok (.mem (.base (BaseKind.ofCode (rmField m))), bs)
  | 1 => do
    let (d, bs) ← takeByte bs
    .ok (.mem (.disp8 (BaseKind.ofCode (rmField m)) d), bs)
  | 2 => do
    let (d, bs) ← takeWord bs
    .ok (.mem (.disp16 (BaseKind.ofCode (rmField m)) d), bs)
  | _ => .ok (.reg (rmField m), bs)

/-- The addressing byte and the r/m operand's displacement: the `reg` field, the operand, the bytes after them. -/
def takeModRm (bs : List Byte) : Except DecodeError (BitVec 3 × RM (BitVec 3) × List Byte) := do
  let (m, bs) ← takeByte bs
  let (e, bs) ← takeRm m bs
  .ok (regField m, e, bs)

def takeE8 (bs : List Byte) : Except DecodeError (BitVec 3 × RM8 × List Byte) := do
  let (g, e, bs) ← takeModRm bs
  .ok (g, e.map Reg8.ofCode, bs)

def takeE16 (bs : List Byte) : Except DecodeError (BitVec 3 × RM16 × List Byte) := do
  let (g, e, bs) ← takeModRm bs
  .ok (g, e.map Reg16.ofCode, bs)

/-! ### Shared shapes -/

/-- The instruction of ALU index `k`: `op[5:3]` of 00 to 3D, the GRP1 `reg` value (30_encoding.md R116, 40_arithmetic.md
R143). -/
def aluInstr (k : BitVec 3) (f : AluForm) : Instr :=
  match k.toNat with
  | 0 => .add f
  | 1 => .or f
  | 2 => .adc f
  | 3 => .sbb f
  | 4 => .and f
  | 5 => .sub f
  | 6 => .xor f
  | _ => .cmp f

/-- The first six opcodes of rows 00 to 38: `Eb,Gb` `Ev,Gv` `Gb,Eb` `Gv,Ev` `AL,Ib` `AX,Iv` (30_encoding.md R115). -/
def takeAluForm (lo : BitVec 3) (bs : List Byte) : Except DecodeError (AluForm × List Byte) :=
  match lo.toNat with
  | 0 => do
    let (g, e, bs) ← takeE8 bs
    .ok (.ebGb e (Reg8.ofCode g), bs)
  | 1 => do
    let (g, e, bs) ← takeE16 bs
    .ok (.evGv e (Reg16.ofCode g), bs)
  | 2 => do
    let (g, e, bs) ← takeE8 bs
    .ok (.gbEb (Reg8.ofCode g) e, bs)
  | 3 => do
    let (g, e, bs) ← takeE16 bs
    .ok (.gvEv (Reg16.ofCode g) e, bs)
  | 4 => do
    let (i, bs) ← takeByte bs
    .ok (.alIb i, bs)
  | _ => do
    let (i, bs) ← takeWord bs
    .ok (.axIv i, bs)

/-- GRP1, opcodes 80 to 83 by `lo` (30_encoding.md R116). -/
def decodeGrp1 (lo : BitVec 3) (bs : List Byte) : Except DecodeError (Instr × List Byte) :=
  match lo.toNat with
  | 0 => do
    let (k, e, bs) ← takeE8 bs
    let (i, bs) ← takeByte bs
    .ok (aluInstr k (.ebIb e i), bs)
  | 1 => do
    let (k, e, bs) ← takeE16 bs
    let (i, bs) ← takeWord bs
    .ok (aluInstr k (.evIv e i), bs)
  | 2 => do
    let (k, e, bs) ← takeE8 bs
    let (i, bs) ← takeByte bs
    .ok (aluInstr k (.ebIbAlt e i), bs)
  | _ => do
    let (k, e, bs) ← takeE16 bs
    let (i, bs) ← takeByte bs
    .ok (aluInstr k (.evIbSx e i), bs)

/-- The GRP2 instruction of `reg` value `k`; 6 is unimplemented and does not reach it (30_encoding.md R116). -/
def shiftInstr (k : BitVec 3) (f : ShiftForm) : Instr :=
  match k.toNat with
  | 0 => .rol f
  | 1 => .ror f
  | 2 => .rcl f
  | 3 => .rcr f
  | 4 => .shl f
  | 5 => .shr f
  | _ => .sar f

/-- GRP2, opcodes D0 to D3 by `lo`. -/
def decodeGrp2 (lo : BitVec 3) (bs : List Byte) : Except DecodeError (Instr × List Byte) :=
  match lo.toNat with
  | 0 => do
    let (k, e, bs) ← takeE8 bs
    .ok (shiftInstr k (.eb1 e), bs)
  | 1 => do
    let (k, e, bs) ← takeE16 bs
    .ok (shiftInstr k (.ev1 e), bs)
  | 2 => do
    let (k, e, bs) ← takeE8 bs
    .ok (shiftInstr k (.ebCl e), bs)
  | _ => do
    let (k, e, bs) ← takeE16 bs
    .ok (shiftInstr k (.evCl e), bs)

/-- The one-operand GRP3 instruction of `reg` value `k` = 2 to 7 (30_encoding.md R116). -/
def unaryInstr (k : BitVec 3) (f : UnForm) : Instr :=
  match k.toNat with
  | 2 => .not f
  | 3 => .neg f
  | 4 => .mul f
  | 5 => .imul f
  | 6 => .div f
  | _ => .idiv f

/-- GRP3a, opcode F6: `/0` has an immediate byte. -/
def decodeGrp3a (bs : List Byte) : Except DecodeError (Instr × List Byte) := do
  let (k, e, bs) ← takeE8 bs
  if k = 0 then
    let (i, bs) ← takeByte bs
    .ok (.test (.ebIb e i), bs)
  else .ok (unaryInstr k (.eb e), bs)

/-- GRP3b, opcode F7: `/0` has an immediate word. -/
def decodeGrp3b (bs : List Byte) : Except DecodeError (Instr × List Byte) := do
  let (k, e, bs) ← takeE16 bs
  if k = 0 then
    let (i, bs) ← takeWord bs
    .ok (.test (.evIv e i), bs)
  else .ok (unaryInstr k (.ev e), bs)

/-- GRP4, opcode FE (`/0` and `/1`; the rest is unimplemented). -/
def decodeGrp4 (bs : List Byte) : Except DecodeError (Instr × List Byte) := do
  let (k, e, bs) ← takeE8 bs
  .ok (if k = 0 then .inc (.eb e) else .dec (.eb e), bs)

/-- The GRP5 instruction of `reg` value `k` = 0 to 6 (30_encoding.md R116). -/
def grp5Instr (k : BitVec 3) (e : RM16) : Instr :=
  match k.toNat with
  | 0 => .inc (.ev e)
  | 1 => .dec (.ev e)
  | 2 => .callRm e
  | 3 => .callFarMem e
  | 4 => .jmpRm e
  | 5 => .jmpFarMem e
  | _ => .pushRm e

/-- GRP5, opcode FF. -/
def decodeGrp5 (bs : List Byte) : Except DecodeError (Instr × List Byte) := do
  let (k, e, bs) ← takeE16 bs
  .ok (grp5Instr k e, bs)

/-- Opcode `70 + cc` (42_control_transfer.md R213). -/
def jccInstr (cc : BitVec 4) (rel : Byte) : Instr :=
  match cc.toNat with
  | 0 => .jo rel
  | 1 => .jno rel
  | 2 => .jb rel
  | 3 => .jnb rel
  | 4 => .jz rel
  | 5 => .jnz rel
  | 6 => .jbe rel
  | 7 => .ja rel
  | 8 => .js rel
  | 9 => .jns rel
  | 10 => .jpe rel
  | 11 => .jpo rel
  | 12 => .jl rel
  | 13 => .jge rel
  | 14 => .jle rel
  | _ => .jg rel

/-- An operand byte followed by nothing. -/
def withByte (f : Byte → Instr) (bs : List Byte) : Except DecodeError (Instr × List Byte) := do
  let (i, bs) ← takeByte bs
  .ok (f i, bs)

/-- An operand word followed by nothing. -/
def withWord (f : Word → Instr) (bs : List Byte) : Except DecodeError (Instr × List Byte) := do
  let (i, bs) ← takeWord bs
  .ok (f i, bs)

/-- An `Ap` operand: offset word, then segment word (30_encoding.md R110). -/
def withFar (f : Word → Word → Instr) (bs : List Byte) : Except DecodeError (Instr × List Byte) := do
  let (off, bs) ← takeWord bs
  let (seg, bs) ← takeWord bs
  .ok (f off seg, bs)

def withE8 (f : BitVec 3 → RM8 → Instr) (bs : List Byte) : Except DecodeError (Instr × List Byte) := do
  let (g, e, bs) ← takeE8 bs
  .ok (f g e, bs)

def withE16 (f : BitVec 3 → RM16 → Instr) (bs : List Byte) : Except DecodeError (Instr × List Byte) := do
  let (g, e, bs) ← takeE16 bs
  .ok (f g e, bs)

/-! ### The rows of the opcode map (30_encoding.md R115) -/

/-- Rows 00 to 38: the two-operand family in the first six opcodes, then a pair of the row's own. -/
def decodeAluRow (k lo : BitVec 3) (bs : List Byte) : Except DecodeError (Instr × List Byte) :=
  if lo.toNat < 6 then do
    let (f, bs) ← takeAluForm lo bs
    .ok (aluInstr k f, bs)
  else
    match k.toNat, decide (lo.toNat = 6) with
    | 0, true => .ok (.pushSeg .es, bs)
    | 0, false => .ok (.popSeg .es, bs)
    | 1, true => .ok (.pushSeg .cs, bs)
    | 1, false => .ok (.unimplOp 0x0F, bs)
    | 2, true => .ok (.pushSeg .ss, bs)
    | 2, false => .ok (.popSeg .ss, bs)
    | 3, true => .ok (.pushSeg .ds, bs)
    | 3, false => .ok (.popSeg .ds, bs)
    | 4, true => .ok (.segEs, bs)
    | 4, false => .ok (.daa, bs)
    | 5, true => .ok (.segCs, bs)
    | 5, false => .ok (.das, bs)
    | 6, true => .ok (.segSs, bs)
    | 6, false => .ok (.aaa, bs)
    | _, true => .ok (.segDs, bs)
    | _, false => .ok (.aas, bs)

/-- 80 to 87. -/
def decodeRow80 (lo : BitVec 3) (bs : List Byte) : Except DecodeError (Instr × List Byte) :=
  match lo.toNat with
  | 4 => withE8 (fun g e => .test (.gbEb (Reg8.ofCode g) e)) bs
  | 5 => withE16 (fun g e => .test (.gvEv (Reg16.ofCode g) e)) bs
  | 6 => withE8 (fun g e => .xchg (.gbEb (Reg8.ofCode g) e)) bs
  | 7 => withE16 (fun g e => .xchg (.gvEv (Reg16.ofCode g) e)) bs
  | _ => decodeGrp1 lo bs

/-- 88 to 8F. -/
def decodeRow88 (lo : BitVec 3) (bs : List Byte) : Except DecodeError (Instr × List Byte) :=
  match lo.toNat with
  | 0 => withE8 (fun g e => .mov (.ebGb e (Reg8.ofCode g))) bs
  | 1 => withE16 (fun g e => .mov (.evGv e (Reg16.ofCode g))) bs
  | 2 => withE8 (fun g e => .mov (.gbEb (Reg8.ofCode g) e)) bs
  | 3 => withE16 (fun g e => .mov (.gvEv (Reg16.ofCode g) e)) bs
  | 4 => withE16 (fun g e => .movFromSeg e g) bs
  | 5 => withE16 (fun g e => .lea (Reg16.ofCode g) e) bs
  | 6 => withE16 (fun g e => .movToSeg g e) bs
  | _ => withE16 (fun g e => .popRm g e) bs

/-- 98 to 9F. -/
def decodeRow98 (lo : BitVec 3) (bs : List Byte) : Except DecodeError (Instr × List Byte) :=
  match lo.toNat with
  | 0 => .ok (.cbw, bs)
  | 1 => .ok (.cwd, bs)
  | 2 => withFar .callFar bs
  | 3 => .ok (.wait, bs)
  | 4 => .ok (.pushf, bs)
  | 5 => .ok (.popf, bs)
  | 6 => .ok (.sahf, bs)
  | _ => .ok (.lahf, bs)

/-- A0 to A7. -/
def decodeRowA0 (lo : BitVec 3) (bs : List Byte) : Except DecodeError (Instr × List Byte) :=
  match lo.toNat with
  | 0 => withWord (fun off => .movMoffs (.alOb off)) bs
  | 1 => withWord (fun off => .movMoffs (.axOv off)) bs
  | 2 => withWord (fun off => .movMoffs (.obAl off)) bs
  | 3 => withWord (fun off => .movMoffs (.ovAx off)) bs
  | 4 => .ok (.movsb, bs)
  | 5 => .ok (.movsw, bs)
  | 6 => .ok (.cmpsb, bs)
  | _ => .ok (.cmpsw, bs)

/-- A8 to AF. -/
def decodeRowA8 (lo : BitVec 3) (bs : List Byte) : Except DecodeError (Instr × List Byte) :=
  match lo.toNat with
  | 0 => withByte (fun i => .test (.alIb i)) bs
  | 1 => withWord (fun i => .test (.axIv i)) bs
  | 2 => .ok (.stosb, bs)
  | 3 => .ok (.stosw, bs)
  | 4 => .ok (.lodsb, bs)
  | 5 => .ok (.lodsw, bs)
  | 6 => .ok (.scasb, bs)
  | _ => .ok (.scasw, bs)

/-- C0 to C7. -/
def decodeRowC0 (lo : BitVec 3) (bs : List Byte) : Except DecodeError (Instr × List Byte) :=
  match lo.toNat with
  | 0 => .ok (.unimplOp 0xC0, bs)
  | 1 => .ok (.unimplOp 0xC1, bs)
  | 2 => withWord .retImm bs
  | 3 => .ok (.ret, bs)
  | 4 => withE16 (fun g e => .les (Reg16.ofCode g) e) bs
  | 5 => withE16 (fun g e => .lds (Reg16.ofCode g) e) bs
  | 6 => do
    let (g, e, bs) ← takeE8 bs
    let (i, bs) ← takeByte bs
    .ok (.movImm (.ebIb g e i), bs)
  | _ => do
    let (g, e, bs) ← takeE16 bs
    let (i, bs) ← takeWord bs
    .ok (.movImm (.evIv g e i), bs)

/-- C8 to CF. -/
def decodeRowC8 (lo : BitVec 3) (bs : List Byte) : Except DecodeError (Instr × List Byte) :=
  match lo.toNat with
  | 0 => .ok (.unimplOp 0xC8, bs)
  | 1 => .ok (.unimplOp 0xC9, bs)
  | 2 => withWord .retfImm bs
  | 3 => .ok (.retf, bs)
  | 4 => .ok (.int3, bs)
  | 5 => withByte .int bs
  | 6 => .ok (.into, bs)
  | _ => .ok (.iret, bs)

/-- D0 to D7. -/
def decodeRowD0 (lo : BitVec 3) (bs : List Byte) : Except DecodeError (Instr × List Byte) :=
  match lo.toNat with
  | 4 => withByte .aam bs
  | 5 => withByte .aad bs
  | 6 => .ok (.unimplOp 0xD6, bs)
  | 7 => .ok (.xlat, bs)
  | _ => decodeGrp2 lo bs

/-- E0 to E7. -/
def decodeRowE0 (lo : BitVec 3) (bs : List Byte) : Except DecodeError (Instr × List Byte) :=
  match lo.toNat with
  | 0 => withByte .loopnz bs
  | 1 => withByte .loopz bs
  | 2 => withByte .loop bs
  | 3 => withByte .jcxz bs
  | 4 => withByte (.inImm .byte) bs
  | 5 => withByte (.inImm .word) bs
  | 6 => withByte (.outImm .byte) bs
  | _ => withByte (.outImm .word) bs

/-- E8 to EF. -/
def decodeRowE8 (lo : BitVec 3) (bs : List Byte) : Except DecodeError (Instr × List Byte) :=
  match lo.toNat with
  | 0 => withWord .callRel bs
  | 1 => withWord (fun rel => .jmpRel (.near rel)) bs
  | 2 => withFar .jmpFar bs
  | 3 => withByte (fun rel => .jmpRel (.short rel)) bs
  | 4 => .ok (.inDx .byte, bs)
  | 5 => .ok (.inDx .word, bs)
  | 6 => .ok (.outDx .byte, bs)
  | _ => .ok (.outDx .word, bs)

/-- F0 to F7. -/
def decodeRowF0 (lo : BitVec 3) (bs : List Byte) : Except DecodeError (Instr × List Byte) :=
  match lo.toNat with
  | 0 => .ok (.lock, bs)
  | 1 => .ok (.unimplOp 0xF1, bs)
  | 2 => .ok (.repnz, bs)
  | 3 => .ok (.repz, bs)
  | 4 => .ok (.hlt, bs)
  | 5 => .ok (.cmc, bs)
  | 6 => decodeGrp3a bs
  | _ => decodeGrp3b bs

/-- F8 to FF. -/
def decodeRowF8 (lo : BitVec 3) (bs : List Byte) : Except DecodeError (Instr × List Byte) :=
  match lo.toNat with
  | 0 => .ok (.clc, bs)
  | 1 => .ok (.stc, bs)
  | 2 => .ok (.cli, bs)
  | 3 => .ok (.sti, bs)
  | 4 => .ok (.cld, bs)
  | 5 => .ok (.std, bs)
  | 6 => decodeGrp4 bs
  | _ => decodeGrp5 bs

/-- The dispatch table by rows of eight opcodes, for encodings whose group slot, if any, is implemented. -/
def decodeImplemented (op : Byte) (bs : List Byte) : Except DecodeError (Instr × List Byte) :=
  match (opRow op).toNat with
  | 8 => .ok (.inc (.r16 (Reg16.ofCode (opLow op))), bs)
  | 9 => .ok (.dec (.r16 (Reg16.ofCode (opLow op))), bs)
  | 10 => .ok (.pushReg (Reg16.ofCode (opLow op)), bs)
  | 11 => .ok (.popReg (Reg16.ofCode (opLow op)), bs)
  | 12 => .ok (.unimplOp op, bs)
  | 13 => .ok (.unimplOp op, bs)
  | 14 => withByte (jccInstr (op.extractLsb' 0 4)) bs
  | 15 => withByte (jccInstr (op.extractLsb' 0 4)) bs
  | 16 => decodeRow80 (opLow op) bs
  | 17 => decodeRow88 (opLow op) bs
  | 18 => .ok (if opLow op = 0 then .nop else .xchgAx (Reg16.ofCode (opLow op)), bs)
  | 19 => decodeRow98 (opLow op) bs
  | 20 => decodeRowA0 (opLow op) bs
  | 21 => decodeRowA8 (opLow op) bs
  | 22 => withByte (fun i => .movRegImm (.r8 (Reg8.ofCode (opLow op)) i)) bs
  | 23 => withWord (fun i => .movRegImm (.r16 (Reg16.ofCode (opLow op)) i)) bs
  | 24 => decodeRowC0 (opLow op) bs
  | 25 => decodeRowC8 (opLow op) bs
  | 26 => decodeRowD0 (opLow op) bs
  | 27 => withE16 (fun g e => .esc (opLow op) g e) bs
  | 28 => decodeRowE0 (opLow op) bs
  | 29 => decodeRowE8 (opLow op) bs
  | 30 => decodeRowF0 (opLow op) bs
  | 31 => decodeRowF8 (opLow op) bs
  | _ => decodeAluRow (op.extractLsb' 3 3) (opLow op) bs

/-- One instruction from the front of a byte string, with the bytes after it. An unimplemented group slot is settled by
the addressing byte alone (30_encoding.md R118). -/
def decode : List Byte → Except DecodeError (Instr × List Byte)
  | [] => .error .truncated
  | op :: bs =>
    match bs with
    | m :: rest =>
      if unimplementedSlot op (regField m) then .ok (.unimplGroup op m, rest) else decodeImplemented op bs
    | [] => decodeImplemented op bs

/-! ### The encoder -/

/-- The addressing byte of its three fields (30_encoding.md R92). -/
def modRmByte (md : BitVec 2) (reg rm : BitVec 3) : Byte := md ++ reg ++ rm

/-- Addressing byte and displacement of an r/m operand (30_encoding.md R104, R105). -/
def encodeRm (reg : BitVec 3) : RM (BitVec 3) → List Byte
  | .reg r => [modRmByte 3 reg r]
  | .mem (.base b) => [modRmByte 0 reg b.code]
  | .mem (.direct off) => [modRmByte 0 reg 6, loByte off, hiByte off]
  | .mem (.disp8 b d) => [modRmByte 1 reg b.code, d]
  | .mem (.disp16 b d) => [modRmByte 2 reg b.code, loByte d, hiByte d]

def encodeE8 (reg : BitVec 3) (e : RM8) : List Byte := encodeRm reg (e.map Reg8.code)

def encodeE16 (reg : BitVec 3) (e : RM16) : List Byte := encodeRm reg (e.map Reg16.code)

/-- A word in the instruction stream, low byte first. -/
def encodeWord (v : Word) : List Byte := [loByte v, hiByte v]

/-- Opcode `00 + 8 * k + lo` of the two-operand family. -/
def aluOpcode (k lo : BitVec 3) : Byte := (0 : BitVec 2) ++ k ++ lo

/-- An opcode with a 3-bit register code in `op[2:0]`. -/
def opWithReg (row : BitVec 5) (r : BitVec 3) : Byte := row ++ r

def encodeAlu (k : BitVec 3) : AluForm → List Byte
  | .ebGb e g => aluOpcode k 0 :: encodeE8 g.code e
  | .evGv e g => aluOpcode k 1 :: encodeE16 g.code e
  | .gbEb g e => aluOpcode k 2 :: encodeE8 g.code e
  | .gvEv g e => aluOpcode k 3 :: encodeE16 g.code e
  | .alIb i => [aluOpcode k 4, i]
  | .axIv i => aluOpcode k 5 :: encodeWord i
  | .ebIb e i => 0x80 :: (encodeE8 k e ++ [i])
  | .evIv e i => 0x81 :: (encodeE16 k e ++ encodeWord i)
  | .ebIbAlt e i => 0x82 :: (encodeE8 k e ++ [i])
  | .evIbSx e i => 0x83 :: (encodeE16 k e ++ [i])

def encodeShift (k : BitVec 3) : ShiftForm → List Byte
  | .eb1 e => 0xD0 :: encodeE8 k e
  | .ev1 e => 0xD1 :: encodeE16 k e
  | .ebCl e => 0xD2 :: encodeE8 k e
  | .evCl e => 0xD3 :: encodeE16 k e

def encodeUnary (k : BitVec 3) : UnForm → List Byte
  | .eb e => 0xF6 :: encodeE8 k e
  | .ev e => 0xF7 :: encodeE16 k e

/-- INC (`k` = 0, row 40) and DEC (`k` = 1, row 48). -/
def encodeIncDec (k : BitVec 3) (row : BitVec 5) : IncForm → List Byte
  | .r16 r => [opWithReg row r.code]
  | .eb e => 0xFE :: encodeE8 k e
  | .ev e => 0xFF :: encodeE16 k e

def encodeTest : TestForm → List Byte
  | .gbEb g e => 0x84 :: encodeE8 g.code e
  | .gvEv g e => 0x85 :: encodeE16 g.code e
  | .alIb i => [0xA8, i]
  | .axIv i => 0xA9 :: encodeWord i
  | .ebIb e i => 0xF6 :: (encodeE8 0 e ++ [i])
  | .evIv e i => 0xF7 :: (encodeE16 0 e ++ encodeWord i)

def encodeMov : MovForm → List Byte
  | .ebGb e g => 0x88 :: encodeE8 g.code e
  | .evGv e g => 0x89 :: encodeE16 g.code e
  | .gbEb g e => 0x8A :: encodeE8 g.code e
  | .gvEv g e => 0x8B :: encodeE16 g.code e

/-- The bytes of a well-formed instruction, from the tables of 30_encoding.md R115 and R116. -/
def encode : Instr → List Byte
  | .add f => encodeAlu 0 f
  | .or f => encodeAlu 1 f
  | .adc f => encodeAlu 2 f
  | .sbb f => encodeAlu 3 f
  | .and f => encodeAlu 4 f
  | .sub f => encodeAlu 5 f
  | .xor f => encodeAlu 6 f
  | .cmp f => encodeAlu 7 f
  | .test f => encodeTest f
  | .inc f => encodeIncDec 0 8 f
  | .dec f => encodeIncDec 1 9 f
  | .not f => encodeUnary 2 f
  | .neg f => encodeUnary 3 f
  | .mul f => encodeUnary 4 f
  | .imul f => encodeUnary 5 f
  | .div f => encodeUnary 6 f
  | .idiv f => encodeUnary 7 f
  | .daa => [0x27]
  | .das => [0x2F]
  | .aaa => [0x37]
  | .aas => [0x3F]
  | .aam i => [0xD4, i]
  | .aad i => [0xD5, i]
  | .cbw => [0x98]
  | .cwd => [0x99]
  | .rol f => encodeShift 0 f
  | .ror f => encodeShift 1 f
  | .rcl f => encodeShift 2 f
  | .rcr f => encodeShift 3 f
  | .shl f => encodeShift 4 f
  | .shr f => encodeShift 5 f
  | .sar f => encodeShift 7 f
  | .mov f => encodeMov f
  | .movImm (.ebIb ign e i) => 0xC6 :: (encodeE8 ign e ++ [i])
  | .movImm (.evIv ign e i) => 0xC7 :: (encodeE16 ign e ++ encodeWord i)
  | .movRegImm (.r8 r i) => [opWithReg 22 r.code, i]
  | .movRegImm (.r16 r i) => opWithReg 23 r.code :: encodeWord i
  | .movFromSeg e sw => 0x8C :: encodeE16 sw e
  | .movToSeg sw e => 0x8E :: encodeE16 sw e
  | .movMoffs (.alOb off) => 0xA0 :: encodeWord off
  | .movMoffs (.axOv off) => 0xA1 :: encodeWord off
  | .movMoffs (.obAl off) => 0xA2 :: encodeWord off
  | .movMoffs (.ovAx off) => 0xA3 :: encodeWord off
  | .xchg (.gbEb g e) => 0x86 :: encodeE8 g.code e
  | .xchg (.gvEv g e) => 0x87 :: encodeE16 g.code e
  | .xchgAx r => [opWithReg 18 r.code]
  | .lea g e => 0x8D :: encodeE16 g.code e
  | .lds g e => 0xC5 :: encodeE16 g.code e
  | .les g e => 0xC4 :: encodeE16 g.code e
  | .xlat => [0xD7]
  | .pushReg r => [opWithReg 10 r.code]
  | .pushSeg .es => [0x06]
  | .pushSeg .cs => [0x0E]
  | .pushSeg .ss => [0x16]
  | .pushSeg .ds => [0x1E]
  | .pushRm e => 0xFF :: encodeE16 6 e
  | .popReg r => [opWithReg 11 r.code]
  | .popSeg .es => [0x07]
  -- not well-formed: 0F is unimplemented
  | .popSeg .cs => [0x0F]
  | .popSeg .ss => [0x17]
  | .popSeg .ds => [0x1F]
  | .popRm ign e => 0x8F :: encodeE16 ign e
  | .pushf => [0x9C]
  | .popf => [0x9D]
  | .sahf => [0x9E]
  | .lahf => [0x9F]
  | .jmpRel (.short rel) => [0xEB, rel]
  | .jmpRel (.near rel) => 0xE9 :: encodeWord rel
  | .jmpRm e => 0xFF :: encodeE16 4 e
  | .jmpFar off seg => 0xEA :: (encodeWord off ++ encodeWord seg)
  | .jmpFarMem e => 0xFF :: encodeE16 5 e
  | .jo rel => [0x70, rel]
  | .jno rel => [0x71, rel]
  | .jb rel => [0x72, rel]
  | .jnb rel => [0x73, rel]
  | .jz rel => [0x74, rel]
  | .jnz rel => [0x75, rel]
  | .jbe rel => [0x76, rel]
  | .ja rel => [0x77, rel]
  | .js rel => [0x78, rel]
  | .jns rel => [0x79, rel]
  | .jpe rel => [0x7A, rel]
  | .jpo rel => [0x7B, rel]
  | .jl rel => [0x7C, rel]
  | .jge rel => [0x7D, rel]
  | .jle rel => [0x7E, rel]
  | .jg rel => [0x7F, rel]
  | .loopnz rel => [0xE0, rel]
  | .loopz rel => [0xE1, rel]
  | .loop rel => [0xE2, rel]
  | .jcxz rel => [0xE3, rel]
  | .callRel rel => 0xE8 :: encodeWord rel
  | .callRm e => 0xFF :: encodeE16 2 e
  | .callFar off seg => 0x9A :: (encodeWord off ++ encodeWord seg)
  | .callFarMem e => 0xFF :: encodeE16 3 e
  | .ret => [0xC3]
  | .retImm n => 0xC2 :: encodeWord n
  | .retf => [0xCB]
  | .retfImm n => 0xCA :: encodeWord n
  | .int3 => [0xCC]
  | .int n => [0xCD, n]
  | .into => [0xCE]
  | .iret => [0xCF]
  | .movsb => [0xA4]
  | .movsw => [0xA5]
  | .cmpsb => [0xA6]
  | .cmpsw => [0xA7]
  | .stosb => [0xAA]
  | .stosw => [0xAB]
  | .lodsb => [0xAC]
  | .lodsw => [0xAD]
  | .scasb => [0xAE]
  | .scasw => [0xAF]
  | .segEs => [0x26]
  | .segCs => [0x2E]
  | .segSs => [0x36]
  | .segDs => [0x3E]
  | .lock => [0xF0]
  | .repnz => [0xF2]
  | .repz => [0xF3]
  | .hlt => [0xF4]
  | .cmc => [0xF5]
  | .clc => [0xF8]
  | .stc => [0xF9]
  | .cli => [0xFA]
  | .sti => [0xFB]
  | .cld => [0xFC]
  | .std => [0xFD]
  | .nop => [0x90]
  | .wait => [0x9B]
  | .esc op ign e => opWithReg 27 op :: encodeE16 ign e
  | .inImm .byte p => [0xE4, p]
  | .inImm .word p => [0xE5, p]
  | .outImm .byte p => [0xE6, p]
  | .outImm .word p => [0xE7, p]
  | .inDx .byte => [0xEC]
  | .inDx .word => [0xED]
  | .outDx .byte => [0xEE]
  | .outDx .word => [0xEF]
  | .unimplOp op => [op]
  | .unimplGroup op m => [op, m]

/-! ### Lengths (30_encoding.md R113, R115 column len, R124) -/

/-- Displacement bytes of an r/m operand (30_encoding.md R105). -/
def RM.dispLen {R : Type} : RM R → Nat
  | .reg _ => 0
  | .mem (.base _) => 0
  | .mem (.direct _) => 2
  | .mem (.disp8 _ _) => 1
  | .mem (.disp16 _ _) => 2

/-- The lengths of 40_arithmetic.md R143. -/
def AluForm.len : AluForm → Nat
  | .ebGb e _ => 2 + e.dispLen
  | .evGv e _ => 2 + e.dispLen
  | .gbEb _ e => 2 + e.dispLen
  | .gvEv _ e => 2 + e.dispLen
  | .alIb _ => 2
  | .axIv _ => 3
  | .ebIb e _ => 3 + e.dispLen
  | .evIv e _ => 4 + e.dispLen
  | .ebIbAlt e _ => 3 + e.dispLen
  | .evIbSx e _ => 3 + e.dispLen

def IncForm.len : IncForm → Nat
  | .r16 _ => 1
  | .eb e => 2 + e.dispLen
  | .ev e => 2 + e.dispLen

def UnForm.len : UnForm → Nat
  | .eb e => 2 + e.dispLen
  | .ev e => 2 + e.dispLen

def TestForm.len : TestForm → Nat
  | .gbEb _ e => 2 + e.dispLen
  | .gvEv _ e => 2 + e.dispLen
  | .alIb _ => 2
  | .axIv _ => 3
  | .ebIb e _ => 3 + e.dispLen
  | .evIv e _ => 4 + e.dispLen

def ShiftForm.len : ShiftForm → Nat
  | .eb1 e => 2 + e.dispLen
  | .ev1 e => 2 + e.dispLen
  | .ebCl e => 2 + e.dispLen
  | .evCl e => 2 + e.dispLen

def MovForm.len : MovForm → Nat
  | .ebGb e _ => 2 + e.dispLen
  | .evGv e _ => 2 + e.dispLen
  | .gbEb _ e => 2 + e.dispLen
  | .gvEv _ e => 2 + e.dispLen

def MovImmForm.len : MovImmForm → Nat
  | .ebIb _ e _ => 3 + e.dispLen
  | .evIv _ e _ => 4 + e.dispLen

def MovRegImmForm.len : MovRegImmForm → Nat
  | .r8 _ _ => 2
  | .r16 _ _ => 3

def XchgForm.len : XchgForm → Nat
  | .gbEb _ e => 2 + e.dispLen
  | .gvEv _ e => 2 + e.dispLen

def JmpRelForm.len : JmpRelForm → Nat
  | .short _ => 2
  | .near _ => 3

/-- `len`: the total length in bytes (30_encoding.md R113). An unimplemented encoding has none; the bytes the decoder
looked at are counted. -/
def Instr.len : Instr → Nat
  | .add f | .or f | .adc f | .sbb f | .and f | .sub f | .xor f | .cmp f => f.len
  | .test f => f.len
  | .inc f | .dec f => f.len
  | .neg f | .not f | .mul f | .imul f | .div f | .idiv f => f.len
  | .daa | .das | .aaa | .aas => 1
  | .aam _ | .aad _ => 2
  | .cbw | .cwd => 1
  | .rol f | .ror f | .rcl f | .rcr f | .shl f | .shr f | .sar f => f.len
  | .mov f => f.len
  | .movImm f => f.len
  | .movRegImm f => f.len
  | .movFromSeg e _ => 2 + e.dispLen
  | .movToSeg _ e => 2 + e.dispLen
  | .movMoffs _ => 3
  | .xchg f => f.len
  | .xchgAx _ => 1
  | .lea _ e | .lds _ e | .les _ e => 2 + e.dispLen
  | .xlat => 1
  | .pushReg _ | .pushSeg _ => 1
  | .pushRm e => 2 + e.dispLen
  | .popReg _ | .popSeg _ => 1
  | .popRm _ e => 2 + e.dispLen
  | .pushf | .popf | .lahf | .sahf => 1
  | .jmpRel f => f.len
  | .jmpRm e => 2 + e.dispLen
  | .jmpFar _ _ => 5
  | .jmpFarMem e => 2 + e.dispLen
  | .jo _ | .jno _ | .jb _ | .jnb _ | .jz _ | .jnz _ | .jbe _ | .ja _ => 2
  | .js _ | .jns _ | .jpe _ | .jpo _ | .jl _ | .jge _ | .jle _ | .jg _ => 2
  | .loop _ | .loopz _ | .loopnz _ | .jcxz _ => 2
  | .callRel _ => 3
  | .callRm e => 2 + e.dispLen
  | .callFar _ _ => 5
  | .callFarMem e => 2 + e.dispLen
  | .ret | .retf => 1
  | .retImm _ | .retfImm _ => 3
  | .int _ => 2
  | .int3 | .into | .iret => 1
  | .movsb | .movsw | .cmpsb | .cmpsw | .scasb | .scasw | .lodsb | .lodsw | .stosb | .stosw => 1
  | .segEs | .segCs | .segSs | .segDs | .repz | .repnz | .lock => 1
  | .clc | .stc | .cmc | .cld | .std | .cli | .sti => 1
  | .nop | .hlt | .wait => 1
  | .esc _ _ e => 2 + e.dispLen
  | .inImm _ _ | .outImm _ _ => 2
  | .inDx _ | .outDx _ => 1
  | .unimplOp _ => 1
  | .unimplGroup _ _ => 2

/-- The seven prefix instructions, after which the latches are kept (45_prefix_flag_io_misc.md R313). -/
def Instr.isPrefix (i : Instr) : Bool :=
  i == .segEs || i == .segCs || i == .segSs || i == .segDs || i == .repz || i == .repnz || i == .lock

/-! ### Words as spec/opcode_table.json numbers them -/

/-- The longest instruction, in bytes (30_encoding.md R90). -/
def maxLen : Nat := 6

/-- The six bytes of an instruction whose first `nbits` bits are `w`. The table writes an encoding as ONE number with
the opcode byte in its highest bits, `0xHHLL` for opcode byte HH and addressing byte LL (30_encoding.md R128), and the
bytes after it are 0 (log 25). -/
def tableBytes (nbits w : Nat) : List Byte :=
  (List.range maxLen).map fun k =>
    if 8 * (k + 1) ≤ nbits then BitVec.ofNat 8 (w >>> (nbits - 8 * (k + 1))) else 0

/-- The instruction the decoder reads from such a word. -/
def decodeTableWord (nbits w : Nat) : Option Instr :=
  match decode (tableBytes nbits w) with
  | .ok (i, _) => some i
  | .error _ => none

end Sys2Proof
end

