-- ==== Sys2Proof/Machine/State.lean ====
section
/-! DEFINITION. The state of the block as plain data (10_state.md R20 to R46), its value after reset, and the reasons a
step can stop (60_exceptions.md R350). Every field has one update function, used by every operation. -/

namespace Sys2Proof.Machine

/-- Why a step stops with an error (60_exceptions.md R350). The state after a fault is unspecified and never final
(R351), so a fault carries none; safe. -/
inductive Fault
  /-- Raised by `construct` on a configuration out of range or missing, never by `step` (R352). Safe. -/
  | configError
  /-- An addressing-mode write of a value wider than the operand (R353 a). Raised by nobody: every write takes a bit
  vector of the operand's width. Safe. -/
  | widthOverflow
  /-- A write through a read-only addressing mode (R353 b). Raised by nobody: no operand form of Syntax.lean pairs such
  a specifier with a destination. Safe. -/
  | invalidAddressingMode
  /-- An operand combination the addressing unit does not implement (R353 c, 30_encoding.md R123): raised by LEA, LDS,
  LES, far indirect CALL and JMP with a register operand, and by MOV with a segment selector of 4 or more. Safe. -/
  | addressingNotImplemented
  /-- A device refuses a port access (R354): raised by IN from the interval timer's control port (R402). Safe. -/
  | devicePortError
  /-- A register identifier outside the register file (R356). Raised by nobody: register operands are closed types.
  Safe. -/
  | registerIdOutOfRange
  deriving DecidableEq, Repr

/-- Why a step gives no next state without an error. -/
inductive Refusal
  /-- An instruction that has no meaning yet: raised by `exec`'s arms only. Safe. -/
  | notModelled (mnemonic : String)
  /-- The outcome `NotImplemented(opcode)` of an unimplemented encoding (60_exceptions.md R355, 45_prefix_flag_io_misc.md
  R340): raised by the meanings of `unimplOp` and `unimplGroup`. Safe. -/
  | notImplemented (opcode : Byte)
  /-- The fetched bytes end inside the instruction: raised by `step`, and unreachable, since it fetches the longest
  instruction's length. Safe. -/
  | truncatedFetch
  deriving DecidableEq, Repr

/-- What a meaning answers. -/
abbrev Outcome (σ : Type) := Host.Outcome σ Fault Refusal

/-- The eight 16-bit registers (10_state.md R21); the byte registers are views of them (R23). -/
structure Regs where
  ax : Word
  cx : Word
  dx : Word
  bx : Word
  sp : Word
  bp : Word
  si : Word
  di : Word
  deriving DecidableEq, Repr

/-- The segment registers (10_state.md R25). -/
structure SRegs where
  es : Word
  cs : Word
  ss : Word
  ds : Word
  deriving DecidableEq, Repr

/-- The nine named FLAGS bits, the only stored flag state (10_state.md R27, R28). `ifl` is IF and `ofl` is OF. -/
structure Flags where
  cf  : Bool
  pf  : Bool
  af  : Bool
  zf  : Bool
  sf  : Bool
  tf  : Bool
  ifl : Bool
  df  : Bool
  ofl : Bool
  deriving DecidableEq, Repr

/-- A channel of the interval timer (60_exceptions.md R400). -/
inductive Channel
  | ch0 | ch1 | ch2
  deriving DecidableEq, Repr

/-- The read/load modes (60_exceptions.md R400), in the order of control-word bits 5:4 (R401). -/
inductive ReadLoad
  | latch | lsb | msb | lsbMsb
  deriving DecidableEq, Repr

/-- The operating modes 0 to 5 (60_exceptions.md R404). -/
inductive PitMode
  | terminalCount | oneShot | rateGenerator | squareWave | softwareStrobe | hardwareStrobe
  deriving DecidableEq, Repr

/-- Where a channel is on its way to terminal count, so that a mode that fires once fires once (60_exceptions.md R404,
R405; the model's own, log 30): no count since its control word, terminal count to come, terminal count reached in a mode
that does not repeat. -/
inductive CountPhase
  | unloaded | awaiting | past
  deriving DecidableEq, Repr

/-- One channel's state (60_exceptions.md R400) and its phase. `outputNotices` counts the calls of the output-change callback, whose
argument is the new `output` (log 23). -/
structure PitChannel where
  rl            : ReadLoad
  mode          : PitMode
  bcd           : Bool
  counter       : Word
  reload        : Word
  lastSet       : Rat
  gate          : Bool
  output        : Bool
  outputNotices : Nat
  running       : Bool
  writeSeq      : Bool
  readSeq       : Bool
  latched       : Word
  latchValid    : Bool
  phase         : CountPhase
  deriving DecidableEq, Repr

structure Pit where
  ch0 : PitChannel
  ch1 : PitChannel
  ch2 : PitChannel
  deriving DecidableEq, Repr

/-- The callbacks a device of this block registers: `fire channel` of the interval timer (60_exceptions.md R405) and the
video device's vertical sync (R410, log 29). -/
inductive Callback
  | pit (c : Channel)
  | verticalSync
  deriving DecidableEq, Repr

/-- A pending timer: its absolute trigger time in ns, which is also its ID, and its callback (60_exceptions.md R384). -/
structure Timer where
  trigger  : Rat
  callback : Callback
  deriving DecidableEq, Repr

/-- The virtual clock (10_state.md R44). `timers` is sorted by trigger time, no two equal. -/
structure Clock where
  cycles         : Nat
  hz             : Rat
  cyclePeriodNS  : Rat
  lastSyncTimeNS : Rat
  lastSyncCycles : Nat
  timers         : List Timer
  deriving DecidableEq, Repr

/-- A frame handed to the renderer (60_exceptions.md R410, R411): the bytes scanned, the size, and the index of the free
value that its pixels are (log 29). -/
structure Frame where
  window : List Byte
  width  : Nat
  height : Nat
  draw   : Nat
  deriving DecidableEq, Repr

/-- What the video device has given the renderer (60_exceptions.md R411): the arguments of `setSize`, how often `render`
was called, and the frame of the last call. -/
structure Video where
  size   : Option (Nat × Nat)
  frames : Nat
  last   : Option Frame
  deriving DecidableEq, Repr

/-- Physical memory (10_state.md R43) as the cells that differ from 0x00, addresses strictly rising (log 4). -/
abbrev Memory := List Host.Cell

/-- The whole state. `cfg` is the construction-time configuration (log 1); `draws` and `wallNS` are the model's own
(log 6, log 8); `lastDecode` is what the inspection interface shows of the last decode (log 10). -/
structure State where
  cfg        : Config
  regs       : Regs
  sregs      : SRegs
  ip         : Word
  flags      : Flags
  ovr        : Option SReg
  rep        : Option RepKind
  halted     : Bool
  mem        : Memory
  clock      : Clock
  pit        : Pit
  video      : Video
  lastDecode : Option DecodeRecord
  wallNS     : Rat
  draws      : Nat
  deriving DecidableEq, Repr

/-! ### Updates, one per field -/

def State.setRegs (s : State) (v : Regs) : State := { s with regs := v }
def State.setSRegs (s : State) (v : SRegs) : State := { s with sregs := v }
def State.setIp (s : State) (v : Word) : State := { s with ip := v }
def State.setFlags (s : State) (v : Flags) : State := { s with flags := v }
def State.setOvr (s : State) (v : Option SReg) : State := { s with ovr := v }
def State.setRep (s : State) (v : Option RepKind) : State := { s with rep := v }
def State.setHalted (s : State) (v : Bool) : State := { s with halted := v }
def State.setMem (s : State) (v : Memory) : State := { s with mem := v }
def State.setClock (s : State) (v : Clock) : State := { s with clock := v }
def State.setPit (s : State) (v : Pit) : State := { s with pit := v }
def State.setVideo (s : State) (v : Video) : State := { s with video := v }
def State.setLastDecode (s : State) (v : Option DecodeRecord) : State := { s with lastDecode := v }
def State.setWallNS (s : State) (v : Rat) : State := { s with wallNS := v }
def State.setDraws (s : State) (v : Nat) : State := { s with draws := v }

/-! ### Reset (10_state.md R46, 70_reset_and_hazards.md R420) -/

/-- A channel before any program touched it: R46 says "unspecified until programmed" and not running; the values are
the model's (log 5). -/
def PitChannel.reset : PitChannel where
  rl := .lsbMsb
  mode := .terminalCount
  bcd := false
  counter := 0
  reload := 0
  lastSet := 0
  gate := true
  output := false
  outputNotices := 0
  running := false
  writeSeq := false
  readSeq := false
  latched := 0
  latchValid := false
  phase := .unloaded

/-- The state after construction with configuration `cfg`: the table of 10_state.md R46. The general registers, the
clock's estimates and the timer's channels, which that table leaves unspecified, have the values of log 3 and log 5; the
video device has given the renderer nothing yet. `boot()` comes after it (`State.boot` of Clock.lean). -/
def State.resetWith (cfg : Config) : State where
  cfg := cfg
  regs := { ax := 0, cx := 0, dx := 0, bx := 0, sp := 0, bp := 0, si := 0, di := 0 }
  sregs := { es := 0, cs := 0xFFFF, ss := 0, ds := 0 }
  ip := 0
  flags := { cf := false, pf := false, af := false, zf := false, sf := false, tf := false, ifl := false, df := false,
             ofl := false }
  ovr := none
  rep := none
  halted := false
  mem := []
  clock := { cycles := 0, hz := 0, cyclePeriodNS := 0, lastSyncTimeNS := 0, lastSyncCycles := 0, timers := [] }
  pit := { ch0 := .reset, ch1 := .reset, ch2 := .reset }
  video := { size := none, frames := 0, last := none }
  lastDecode := none
  wallNS := 0
  draws := 0

/-- The machine right after reset, in the configuration of log 2. -/
def State.reset : State := State.resetWith Config.standard

end Sys2Proof.Machine
end

