-- ==== Sys2Proof/Machine/Flags.lean ====
section
/-! DEFINITION. The flags unit: every flag computation of the spec, over N-bit operands (10_state.md R27 to R32,
40_arithmetic.md R140, R141, 41_logic_shift.md R180). -/

namespace Sys2Proof.Machine

/-- `parity8(b)`: the number of 1 bits of the byte is even (10_state.md R31). -/
def parity8 (b : Byte) : Bool :=
  !(b.getLsbD 0 ^^ b.getLsbD 1 ^^ b.getLsbD 2 ^^ b.getLsbD 3 ^^ b.getLsbD 4 ^^ b.getLsbD 5 ^^ b.getLsbD 6 ^^ b.getLsbD 7)

/-- `SZP_N(r)` (00_scope.md R15). -/
def szpFlags {n : Nat} (r : BitVec n) (f : Flags) : Flags :=
  { f with sf := r.msb, zf := r == 0, pf := parity8 (r.setWidth 8) }

/-- `ADDFLAGS_N(a, b, cin, r)` (40_arithmetic.md R140). -/
def addFlags {n : Nat} (a b : BitVec n) (cin : Bool) (r : BitVec n) (f : Flags) : Flags :=
  { szpFlags r f with
    cf := decide (2 ^ n ≤ a.toNat + b.toNat + cin.toNat)
    ofl := ((a ^^^ r) &&& (b ^^^ r)).msb
    af := (a ^^^ b ^^^ r).getLsbD 4 }

/-- `SUBFLAGS_N(a, b, bin, r)` (40_arithmetic.md R141). -/
def subFlags {n : Nat} (a b : BitVec n) (bin : Bool) (r : BitVec n) (f : Flags) : Flags :=
  { szpFlags r f with
    cf := decide (a.toNat < b.toNat + bin.toNat)
    ofl := ((a ^^^ b) &&& (a ^^^ r)).msb
    af := (a ^^^ b ^^^ r).getLsbD 4 }

/-- The defined part of `LOGICFLAGS_N(r)` (41_logic_shift.md R180); AF is drawn by the operation that uses it. -/
def logicFlags {n : Nat} (r : BitVec n) (f : Flags) : Flags :=
  { szpFlags r f with cf := false, ofl := false }

/-- The six status flags (10_state.md R27, column kind). -/
inductive StatusFlag
  | cf | pf | af | zf | sf | ofl
  deriving DecidableEq, Repr

def Flags.put (f : Flags) (x : StatusFlag) (b : Bool) : Flags :=
  match x with
  | .cf => { f with cf := b }
  | .pf => { f with pf := b }
  | .af => { f with af := b }
  | .zf => { f with zf := b }
  | .sf => { f with sf := b }
  | .ofl => { f with ofl := b }

def Flags.get (f : Flags) : StatusFlag → Bool
  | .cf => f.cf
  | .pf => f.pf
  | .af => f.af
  | .zf => f.zf
  | .sf => f.sf
  | .ofl => f.ofl

/-- The bit `mask` of a flag, or nothing (10_state.md R27, column mask). -/
def maskIf (b : Bool) (mask : Word) : Word := if b then mask else 0

/-- The nine named bits in their places; the reserved bits are 0 here and drawn by whoever reads the word. -/
def Flags.named (f : Flags) : Word :=
  maskIf f.cf 0x0001 ||| maskIf f.pf 0x0004 ||| maskIf f.af 0x0010 ||| maskIf f.zf 0x0040 ||| maskIf f.sf 0x0080 |||
    maskIf f.tf 0x0100 ||| maskIf f.ifl 0x0200 ||| maskIf f.df 0x0400 ||| maskIf f.ofl 0x0800

/-- FLAGS bits 1, 3, 5, 12 to 15 (10_state.md R28). -/
def reservedMask : Word := 0xF02A

/-- A FLAGS image whose reserved bits are those of `free` (43_data_transfer.md R267). -/
def Flags.image (f : Flags) (free : Word) : Word := f.named ||| (free &&& reservedMask)

/-- Loading a word into FLAGS: the nine named bits are taken, the reserved bits discarded (43_data_transfer.md R268). -/
def Flags.ofWord (w : Word) : Flags where
  cf := w.getLsbD 0
  pf := w.getLsbD 2
  af := w.getLsbD 4
  zf := w.getLsbD 6
  sf := w.getLsbD 7
  tf := w.getLsbD 8
  ifl := w.getLsbD 9
  df := w.getLsbD 10
  ofl := w.getLsbD 11

/-- Loading the low byte of FLAGS (SAHF, 43_data_transfer.md R270). -/
def Flags.ofLowByte (f : Flags) (b : Byte) : Flags :=
  { f with cf := b.getLsbD 0, pf := b.getLsbD 2, af := b.getLsbD 4, zf := b.getLsbD 6, sf := b.getLsbD 7 }

/-- The conditions of the sixteen conditional jumps (42_control_transfer.md R213). -/
def Flags.below (f : Flags) : Bool := f.cf
def Flags.belowOrEqual (f : Flags) : Bool := f.cf || f.zf
def Flags.less (f : Flags) : Bool := f.sf != f.ofl
def Flags.lessOrEqual (f : Flags) : Bool := f.zf || (f.sf != f.ofl)

end Sys2Proof.Machine
end

