-- ==== Sys2Proof/Machine/Ops.lean ====
section
/-! DEFINITION. The named operations over registers, memory and the stack; free values and the host's clock; taking a
trap and returning from one (10_state.md, 20_memory.md, 60_exceptions.md R360). -/

namespace Sys2Proof.Machine

/-! ### Physical memory (10_state.md R43, 20_memory.md R60) -/

/-- What an address that no cell lists reads as (DESIGN CHOICE 0x00, log 4). -/
def unlistedByte : Byte := 0x00

/-- The byte at an array index. The cells are sorted, so the search ends at the first greater address. -/
def Memory.read : Memory → Nat → Byte
  | [], _ => unlistedByte
  | (a, b) :: m, k => if k < a then unlistedByte else if k = a then b else Memory.read m k

/-- Setting the byte at an array index, in canonical form: a value equal to what an unlisted address reads as removes
the cell. -/
def Memory.write : Memory → Nat → Byte → Memory
  | [], k, v => if v = unlistedByte then [] else [(k, v)]
  | (a, b) :: m, k, v =>
    if k < a then (if v = unlistedByte then (a, b) :: m else (k, v) :: (a, b) :: m)
    else if k = a then (if v = unlistedByte then m else (k, v) :: m)
    else (a, b) :: Memory.write m k v

/-- Addresses strictly rising from `n` on, and no cell equal to the unlisted byte. -/
def Memory.risingFrom : Nat → Memory → Bool
  | _, [] => true
  | n, (a, b) :: m => decide (n ≤ a) && (b != unlistedByte) && Memory.risingFrom (a + 1) m

/-- The canonical form. -/
def Memory.wf (m : Memory) : Bool := Memory.risingFrom 0 m

/-- Every listed address is below `n`. -/
def Memory.below (n : Nat) (m : Memory) : Bool := m.all fun c => decide (c.1 < n)

/-! ### Registers (10_state.md R21 to R25, R38) -/

/-- `readReg16`. -/
def State.reg16 (s : State) : Reg16 → Word
  | .ax => s.regs.ax
  | .cx => s.regs.cx
  | .dx => s.regs.dx
  | .bx => s.regs.bx
  | .sp => s.regs.sp
  | .bp => s.regs.bp
  | .si => s.regs.si
  | .di => s.regs.di

/-- `writeReg16`. -/
def State.setReg16 (s : State) (r : Reg16) (v : Word) : State :=
  match r with
  | .ax => s.setRegs { s.regs with ax := v }
  | .cx => s.setRegs { s.regs with cx := v }
  | .dx => s.setRegs { s.regs with dx := v }
  | .bx => s.setRegs { s.regs with bx := v }
  | .sp => s.setRegs { s.regs with sp := v }
  | .bp => s.setRegs { s.regs with bp := v }
  | .si => s.setRegs { s.regs with si := v }
  | .di => s.setRegs { s.regs with di := v }

/-- `readReg8`: a view of the word register (10_state.md R22, R23). -/
def State.reg8 (s : State) (r : Reg8) : Byte :=
  if r.isHigh then hiByte (s.reg16 r.word) else loByte (s.reg16 r.word)

/-- `writeReg8`: the other half is unchanged (10_state.md R23). -/
def State.setReg8 (s : State) (r : Reg8) (v : Byte) : State :=
  s.setReg16 r.word
    (if r.isHigh then wordOfBytes (loByte (s.reg16 r.word)) v else wordOfBytes v (hiByte (s.reg16 r.word)))

def State.sreg (s : State) : SReg → Word
  | .es => s.sregs.es
  | .cs => s.sregs.cs
  | .ss => s.sregs.ss
  | .ds => s.sregs.ds

def State.setSReg (s : State) (r : SReg) (v : Word) : State :=
  match r with
  | .es => s.setSRegs { s.sregs with es := v }
  | .cs => s.setSRegs { s.sregs with cs := v }
  | .ss => s.setSRegs { s.sregs with ss := v }
  | .ds => s.setSRegs { s.sregs with ds := v }

/-- `IPnext` for an instruction of `len` bytes (00_scope.md R13). -/
def State.nextIp (s : State) (len : Nat) : Word := s.ip + BitVec.ofNat 16 len

/-- `IP <- IPnext` (30_encoding.md R113). -/
def State.advance (s : State) (len : Nat) : State := s.setIp (s.nextIp len)

/-! ### Addresses (20_memory.md R61 to R64) -/

/-- `lin(s, o) = s * 16 + o`, not reduced (R61). -/
def lin (segment offset : Word) : Nat := segment.toNat * 16 + offset.toNat

/-- `seg2abs`: an override latch replaces the segment passed (R63). -/
def State.seg2abs (s : State) (seg : SReg) (off : Word) : Nat := lin (s.sreg (s.ovr.getD seg)) off

/-- `phys`: instruction fetch and vector reads, never affected by a latch (R64). -/
def phys (segment offset : Word) : Nat := lin segment offset

/-- The array index of a linear address (R62). -/
def State.index (s : State) (a : Nat) : Nat := a % s.cfg.memSize

/-! ### Access primitives (20_memory.md R66) -/

def State.memRead8 (s : State) (a : Nat) : Byte := s.mem.read (s.index a)

def State.memRead16 (s : State) (a : Nat) : Word := wordOfBytes (s.memRead8 a) (s.memRead8 (a + 1))

def State.memWrite8 (s : State) (a : Nat) (v : Byte) : State := s.setMem (s.mem.write (s.index a) v)

def State.memWrite16 (s : State) (a : Nat) (v : Word) : State :=
  (s.memWrite8 a (loByte v)).memWrite8 (a + 1) (hiByte v)

/-- `Read(seg, off, 1)` (00_scope.md R12). -/
def State.read8 (s : State) (seg : SReg) (off : Word) : Byte := s.memRead8 (s.seg2abs seg off)

/-- `Read(seg, off, 2)`. -/
def State.read16 (s : State) (seg : SReg) (off : Word) : Word := s.memRead16 (s.seg2abs seg off)

/-- `Write(seg, off, 1, v)`. -/
def State.write8 (s : State) (seg : SReg) (off : Word) (v : Byte) : State := s.memWrite8 (s.seg2abs seg off) v

/-- `Write(seg, off, 2, v)`. -/
def State.write16 (s : State) (seg : SReg) (off : Word) (v : Word) : State := s.memWrite16 (s.seg2abs seg off) v

/-- `Fetch8(k)` (30_encoding.md R93). -/
def State.fetch8 (s : State) (k : Nat) : Byte := s.memRead8 (phys (s.sreg .cs) (s.nextIp k))

/-- The bytes the longest instruction at CS:IP would have (log 11). -/
def State.fetchWindow (s : State) : List Byte := (List.range maxLen).map s.fetch8

/-! ### The stack (20_memory.md R82) -/

def State.push16 (s : State) (v : Word) : State :=
  let s1 := s.setReg16 .sp (s.reg16 .sp - 2)
  s1.write16 .ss (s1.reg16 .sp) v

/-- The popped word and the state after the pop. -/
def State.pop16 (s : State) : Word × State :=
  (s.read16 .ss (s.reg16 .sp), s.setReg16 .sp (s.reg16 .sp + 2))

/-! ### Free values and the host's clock (00_scope.md R14, 60_exceptions.md R388; log 6, log 8) -/

/-- `draw_1()`. -/
def State.drawBit (s : State) : Bool × State := (Config.freeBit s.draws, s.setDraws (s.draws + 1))

/-- `draw_16()`. -/
def State.drawWord (s : State) : Word × State := (Config.freeWord s.draws, s.setDraws (s.draws + 1))

/-- A byte read from a count port, unspecified whatever byte `b` was selected (60_exceptions.md R406). -/
def State.drawCountByte (s : State) (b : Byte) : Byte × State := (Config.countByte s.draws b, s.setDraws (s.draws + 1))

/-- One status flag left unspecified by an instruction (40_arithmetic.md R142, `U`). -/
def State.freeFlag (s : State) (x : StatusFlag) : State :=
  let (b, s1) := s.drawBit
  s1.setFlags (s1.flags.put x b)

/-- Each of these flags left unspecified, by an independent draw. -/
def State.freeFlags (s : State) (xs : List StatusFlag) : State := xs.foldl State.freeFlag s

/-- How far the host's clock moved at draw `k`: an unspecified non-negative rational. -/
def wallAdvance (k : Nat) : Rat :=
  (Config.wallAdvanceNum k : Rat) / ((Config.wallAdvanceDen k : Rat) + 1)

/-- `now()`: not before the last answer (60_exceptions.md R388). -/
def State.now (s : State) : Rat × State :=
  let t := s.wallNS + wallAdvance s.draws
  (t, (s.setWallNS t).setDraws (s.draws + 1))

/-! ### FLAGS images, traps and their return (43_data_transfer.md R267, 60_exceptions.md R360, 42_control_transfer.md R241) -/

/-- `FLAGSimage()`: the reserved bits are drawn. -/
def State.flagsImage (s : State) : Word × State :=
  let (free, s1) := s.drawWord
  (s.flags.image free, s1)

/-- The vector-table entry of vector `n`: the linear addresses of its offset word and of its segment word (R360). -/
def vectorOffset (n : Byte) : Nat := phys 0 (BitVec.ofNat 16 (4 * n.toNat))

def vectorSegment (n : Byte) : Nat := phys 0 (BitVec.ofNat 16 (4 * n.toNat + 2))

/-- `trap(n)` with return offset `ret`: the one way into a handler (R360). -/
def State.trap (s : State) (n : Byte) (ret : Word) : State :=
  let (img, s0) := s.flagsImage
  let s1 := s0.push16 img
  let s2 := s1.setFlags { s1.flags with ifl := false, tf := false }
  let s3 := s2.push16 (s2.sreg .cs)
  let s4 := s3.push16 ret
  let s5 := s4.setIp (s4.memRead16 (vectorOffset n))
  s5.setSReg .cs (s5.memRead16 (vectorSegment n))

/-- IRET's effect. The pops and writes are in the order of the rule: under a CS override the third pop already uses the
new CS (R241, 20_memory.md R63). -/
def State.interruptReturn (s : State) : State :=
  let (ip, s1) := s.pop16
  let s2 := s1.setIp ip
  let (cs, s3) := s2.pop16
  let s4 := s3.setSReg .cs cs
  let (f, s5) := s4.pop16
  s5.setFlags (Flags.ofWord f)

/-! ### Latches (45_prefix_flag_io_misc.md R313) -/

def State.clearLatches (s : State) : State := (s.setOvr none).setRep none

end Sys2Proof.Machine
end

