-- ==== Sys2Proof/Machine/Timers.lean ====
section
/-! DEFINITION. The timer registry of the virtual clock (60_exceptions.md R384, R385). -/

namespace Sys2Proof.Machine

/-- The registry is keyed by trigger time: strictly rising. -/
def timersRising : List Timer → Bool
  | [] => true
  | [_] => true
  | t :: u :: ts => decide (t.trigger < u.trigger) && timersRising (u :: ts)

/-- `addTimer`: a timer for a pending trigger time replaces that one (R384, D29). -/
def insertTimer (t : Timer) : List Timer → List Timer
  | [] => [t]
  | u :: us =>
    if t.trigger < u.trigger then t :: u :: us
    else if t.trigger = u.trigger then t :: us
    else u :: insertTimer t us

/-- `removeTimer`: no effect when the ID is not pending (R385). -/
def eraseTimer (id : Rat) (ts : List Timer) : List Timer := ts.filter fun t => decide (t.trigger ≠ id)

/-- The registry without the pending timer of a channel (R401, log 22). -/
def eraseChannel (c : Channel) (ts : List Timer) : List Timer := ts.filter fun t => decide (t.callback ≠ .pit c)

/-- Whether a trigger time is pending. -/
def isPending (id : Rat) (ts : List Timer) : Bool := ts.any fun t => decide (t.trigger = id)

/-- `addTimer(trigger, callback) -> id`: the ID is the trigger time (R384). -/
def State.addTimer (s : State) (trigger : Rat) (callback : Callback) : Rat × State :=
  (trigger, s.setClock
    { s.clock with timers := insertTimer { trigger := trigger, callback := callback } s.clock.timers })

/-- `removeTimer(id)`. -/
def State.removeTimer (s : State) (id : Rat) : State :=
  s.setClock { s.clock with timers := eraseTimer id s.clock.timers }

/-- Removing a channel's pending timer. -/
def State.removeChannelTimer (s : State) (c : Channel) : State :=
  s.setClock { s.clock with timers := eraseChannel c s.clock.timers }

end Sys2Proof.Machine
end

