-- ==== Sys2Proof/Machine/Pit.lean ====
section
/-! DEFINITION. The interval timer (60_exceptions.md R400 to R406). -/

namespace Sys2Proof.Machine

/-- A channel of the timer. -/
def Pit.channel (p : Pit) : Channel → PitChannel
  | .ch0 => p.ch0
  | .ch1 => p.ch1
  | .ch2 => p.ch2

def Pit.setChannel (p : Pit) (c : Channel) (v : PitChannel) : Pit :=
  match c with
  | .ch0 => { p with ch0 := v }
  | .ch1 => { p with ch1 := v }
  | .ch2 => { p with ch2 := v }

def State.setChannel (s : State) (c : Channel) (v : PitChannel) : State := s.setPit (s.pit.setChannel c v)

/-! ### Counts (R400, R401, R406; log 17) -/

/-- The number four decimal digits stand for. The spec does not say what a digit above 9 counts for: it counts for 10 to 15
at its place (DESIGN CHOICE, log 17). -/
def bcdToNat (v : Word) : Nat :=
  (v.extractLsb' 12 4).toNat * 1000 + (v.extractLsb' 8 4).toNat * 100 + (v.extractLsb' 4 4).toNat * 10 +
    (v.extractLsb' 0 4).toNat

/-- The four low decimal digits of a number. -/
def natToBcd (n : Nat) : Word :=
  BitVec.ofNat 16 (n / 1000 % 10 * 4096 + n / 100 % 10 * 256 + n / 10 % 10 * 16 + n % 10)

/-- The count a 16-bit counter content stands for: 0 stands for the full period, 65536, or 10000 in BCD (R400, R401). -/
def countOf (bcd : Bool) (v : Word) : Nat :=
  if v = 0 then (if bcd then 10000 else 65536) else if bcd then bcdToNat v else v.toNat

/-- `N(ch)`. -/
def PitChannel.period (c : PitChannel) : Nat := countOf c.bcd c.reload

/-- The counter content that stands for a count, modulo the counter's size. -/
def contentOf (bcd : Bool) (n : Nat) : Word := if bcd then natToBcd n else BitVec.ofNat 16 n

/-- `liveCount(ch)` at time `t` of a running channel (R406). -/
def PitChannel.liveAt (c : PitChannel) (periodNS t : Rat) : Word :=
  contentOf c.bcd (c.period - (((t - c.lastSet) / periodNS).floor % (c.period : Int)).toNat)

/-- `liveCount(ch)`: the stored counter when not running, else computed from the host's clock. -/
def State.liveCount (s : State) (c : Channel) : Word × State :=
  let ch := s.pit.channel c
  if ch.running then
    let (t, s1) := s.now
    (ch.liveAt s.cfg.pitPeriodNS t, s1)
  else (ch.counter, s)

/-! ### Output and firing (R404, R405; log 18, log 23) -/

/-- Driving the output pin; the output-change callback is called when the level changes. -/
def PitChannel.drive (c : PitChannel) (level : Bool) : PitChannel :=
  { c with output := level
           outputNotices := if c.output = level then c.outputNotices else c.outputNotices + 1 }

/-- A mode's row of the configured table. -/
def pitRow (p : PitTable) : PitMode → PitModeRow
  | .terminalCount => p.mode0
  | .oneShot => p.mode1
  | .rateGenerator => p.mode2
  | .squareWave => p.mode3
  | .softwareStrobe => p.mode4
  | .hardwareStrobe => p.mode5

/-- What the output does at terminal count: in mode 3 R405 settles it, in the others the table says. -/
def terminalEffect (p : PitTable) : PitMode → TerminalEffect
  | .squareWave => .toggles
  | .terminalCount => p.mode0.terminal
  | .oneShot => p.mode1.terminal
  | .rateGenerator => p.mode2.terminal
  | .softwareStrobe => p.mode4.terminal
  | .hardwareStrobe => p.mode5.terminal

/-- The output at terminal count; a pulse of one input clock is one change down and one up. -/
def PitChannel.terminal (c : PitChannel) : TerminalEffect → PitChannel
  | .toggles => c.drive (!c.output)
  | .goesHigh => c.drive true
  | .lowPulse => (c.drive false).drive true

/-- The modes that reload and register their next timer (R405). -/
def PitMode.periodic : PitMode → Bool
  | .rateGenerator | .squareWave => true
  | .terminalCount | .oneShot | .softwareStrobe | .hardwareStrobe => false

/-- `fire(ch)` at fire time `tf` (R405): periodic modes reload and register the next timer `PIT_PERIOD_NS * N` later; in
the others terminal count is then past. -/
def State.fire (s : State) (c : Channel) (tf : Rat) : State :=
  let old := s.pit.channel c
  let ch := old.terminal (terminalEffect s.cfg.pitTable old.mode)
  if ch.mode.periodic then
    ((s.setChannel c { ch with lastSet := tf, counter := ch.reload }).addTimer (tf + s.cfg.pitPeriodNS * ch.period)
      (.pit c)).2
  else s.setChannel c { ch with phase := .past }

/-! ### Port writes (R401) -/

/-- Control-word bits 5:4. -/
def ReadLoad.ofBits (b : BitVec 2) : ReadLoad :=
  match b.toNat with
  | 0 => .latch
  | 1 => .lsb
  | 2 => .msb
  | _ => .lsbMsb

/-- Control-word bits 3:1; 6 and 7 alias 2 and 3. -/
def PitMode.ofBits (b : BitVec 3) : PitMode :=
  match b.toNat with
  | 0 => .terminalCount
  | 1 => .oneShot
  | 2 => .rateGenerator
  | 3 => .squareWave
  | 4 => .softwareStrobe
  | 5 => .hardwareStrobe
  | 6 => .rateGenerator
  | _ => .squareWave

/-- Control-word bits 7:6; 3 is not a channel (log 20). -/
def Channel.ofBits (b : BitVec 2) : Option Channel :=
  match b.toNat with
  | 0 => some .ch0
  | 1 => some .ch1
  | 2 => some .ch2
  | _ => none

/-- The latch command: mode unchanged. -/
def State.latchCount (s : State) (c : Channel) : State :=
  let (v, s1) := s.liveCount c
  s1.setChannel c { s1.pit.channel c with latched := v, latchValid := true }

/-- Programming a channel. -/
def State.programChannel (s : State) (c : Channel) (v : Byte) : State :=
  let mode := PitMode.ofBits (v.extractLsb' 1 3)
  let s1 := s.setChannel c
    { s.pit.channel c with
      rl := ReadLoad.ofBits (v.extractLsb' 4 2)
      mode := mode
      bcd := v.getLsbD 0
      writeSeq := false
      readSeq := false
      running := false
      output := (pitRow s.cfg.pitTable mode).initialOutput
      phase := .unloaded }
  s1.removeChannelTimer c

/-- `write(base + 3, v, 1)`. -/
def State.writeControl (s : State) (v : Byte) : State :=
  match Channel.ofBits (v.extractLsb' 6 2) with
  | none => s
  | some c => if (v.extractLsb' 4 2).toNat = 0 then s.latchCount c else s.programChannel c v

/-- `complete`: the reload value is taken and, when the channel runs, its timer armed. Each `now()` of the rule is a
reading of its own (R388). -/
def State.completeReload (s : State) (c : Channel) : State :=
  let (t, s1) := s.now
  let ch := s1.pit.channel c
  let s2 := (s1.setChannel c
    { ch with lastSet := t, counter := ch.reload, running := ch.gate, phase := .awaiting }).removeChannelTimer c
  if ch.gate then
    let (u, s3) := s2.now
    (s3.addTimer (u + s.cfg.pitPeriodNS * ch.period) (.pit c)).2
  else s2

/-- `write(base + ch, v, 1)`. A channel whose read/load mode is still "latch" has not been programmed and takes no byte
(log 21). -/
def State.writeCount (s : State) (c : Channel) (v : Byte) : State :=
  let ch := s.pit.channel c
  match ch.rl with
  | .latch => s
  | .lsb => (s.setChannel c { ch with reload := wordOfBytes v 0 }).completeReload c
  | .msb => (s.setChannel c { ch with reload := wordOfBytes 0 v }).completeReload c
  | .lsbMsb =>
    if ch.writeSeq then
      (s.setChannel c { ch with reload := wordOfBytes (loByte ch.reload) v, writeSeq := false }).completeReload c
    else s.setChannel c { ch with reload := wordOfBytes v (hiByte ch.reload), writeSeq := true }

/-! ### Port reads (R402) -/

/-- `read(base + ch, 1)`. The read/load mode selects a byte of the latched or the live count; the byte that arrives is
unspecified, a draw for every read (R406, U12). In read/load mode "latch" R402 selects none (log 21). -/
def State.readCount (s : State) (c : Channel) : Byte × State :=
  let ch := s.pit.channel c
  let (v, s1) := if ch.latchValid then (ch.latched, s) else s.liveCount c
  match ch.rl with
  | .latch =>
    let (w, s2) := s1.drawWord
    (loByte w, s2)
  | .lsb => (s1.setChannel c { ch with latchValid := false }).drawCountByte (loByte v)
  | .msb => (s1.setChannel c { ch with latchValid := false }).drawCountByte (hiByte v)
  | .lsbMsb =>
    if ch.readSeq then (s1.setChannel c { ch with readSeq := false, latchValid := false }).drawCountByte (hiByte v)
    else (s1.setChannel c { ch with readSeq := true }).drawCountByte (loByte v)

/-! ### The gate, a device-side operation that no instruction reaches (R404; log 18, log 30) -/

/-- Counting stops at the present count. -/
def State.suspendChannel (s : State) (c : Channel) : State :=
  let (v, s1) := s.liveCount c
  (s1.setChannel c { s1.pit.channel c with counter := v, running := false }).removeChannelTimer c

/-- Counting goes on from the stored count, from one reading of the clock (DESIGN CHOICE, log 16). A timer is armed only when terminal count is still to come, and a channel that
has no count since its control word has nothing to resume (DESIGN CHOICE, log 30). -/
def State.resumeChannel (s : State) (c : Channel) : State :=
  let (t, s1) := s.now
  let ch := s1.pit.channel c
  let left := countOf ch.bcd ch.counter
  let gone : Rat := (ch.period : Rat) - (left : Rat)
  let s2 := (s1.setChannel c
    { ch with running := true, lastSet := t - s.cfg.pitPeriodNS * gone }).removeChannelTimer c
  match ch.phase with
  | .unloaded => s
  | .awaiting => (s2.addTimer (t + s.cfg.pitPeriodNS * left) (.pit c)).2
  | .past => s2

/-- The effect of a falling gate. -/
def State.gateFalls (s : State) (c : Channel) : GateLowEffect → State
  | .noEffect => s
  | .suspends => s.suspendChannel c
  | .forcesHighAndStops => (s.setChannel c ((s.pit.channel c).drive true)).suspendChannel c

/-- The effect of a rising gate. -/
def State.gateRises (s : State) (c : Channel) : GateRiseEffect → State
  | .resumes => s.resumeChannel c
  | .startsShot => (s.setChannel c ((s.pit.channel c).drive false)).completeReload c
  | .restarts => s.completeReload c

/-- `setGate(ch, level)`: the columns "gate low" and "gate rising edge" of the configured table; no edge, no effect. -/
def State.setGate (s : State) (c : Channel) (level : Bool) : State :=
  let ch := s.pit.channel c
  let row := pitRow s.cfg.pitTable ch.mode
  let s1 := s.setChannel c { ch with gate := level }
  if ch.gate = level then s
  else if level then s1.gateRises c row.gateRise
  else s1.gateFalls c row.gateLow

end Sys2Proof.Machine
end

