-- ==== Sys2Proof/Machine/Video.lean ====
section
/-! DEFINITION. The video device's service and the renderer contract (60_exceptions.md R410, R411; log 29). -/

namespace Sys2Proof.Machine

/-- The bytes of array indices `base` to `base + size - 1`, reduced modulo MEM_SIZE as the core's accesses are: no rule
says what a video range or an inspected range that runs past MEM_SIZE does (DESIGN CHOICE, log 32). -/
def State.window (s : State) (base size : Nat) : List Byte := (List.range size).map fun k => s.memRead8 (base + k)

/-- The bytes the video device scans: `[VIDEO_BASE, VIDEO_BASE + VIDEO_SIZE)`, as they are at the instruction boundary
(R410, 20_memory.md R71, R79). -/
def State.videoWindow (s : State) : List Byte := s.window s.cfg.videoBase s.cfg.videoSize

/-- `pixelBuffer`: `4 * width * height` row-major RGBA bytes (R411). How they follow from the bytes scanned is in no
source, so each is a free value. -/
def Frame.pixelBuffer (f : Frame) : List Byte :=
  (List.range (4 * f.width * f.height)).map (Config.freePixel f.draw)

/-- `setSize(width, height)` of the renderer. -/
def State.setScreenSize (s : State) : State :=
  s.setVideo { s.video with size := some (s.cfg.screenWidth, s.cfg.screenHeight) }

/-- One scan: the window is read, a frame built from it and handed to the renderer's `render`. Neither call returns
anything, and no CPU state or memory changes (R410, R411, D38). -/
def State.scanVideo (s : State) : State :=
  let frame : Frame :=
    { window := s.videoWindow, width := s.cfg.screenWidth, height := s.cfg.screenHeight, draw := s.draws }
  (s.setDraws (s.draws + 1)).setVideo { s.video with frames := s.video.frames + 1, last := some frame }

/-- The next vertical sync, when the device scans in a timer callback. -/
def State.armVerticalSync (s : State) (t : Rat) : State :=
  match s.cfg.videoScan with
  | .eachCycle => s
  | .verticalSync period => (s.addTimer (t + period) .verticalSync).2

/-- The vertical-sync callback at time `t`: a scan, and the next registration. -/
def State.verticalSync (s : State) (t : Rat) : State := s.scanVideo.armVerticalSync t

/-- The video device's `deviceCycle()`: a scan when it scans there, else a no-op (R396). -/
def State.videoCycle (s : State) : State :=
  match s.cfg.videoScan with
  | .eachCycle => s.scanVideo
  | .verticalSync _ => s

/-- The video device's `boot()`: the renderer learns the size, and the first vertical sync is registered when the device
scans in a timer callback (R396 "`boot()` may register timers"). -/
def State.bootVideo (s : State) : State :=
  let (t, s1) := s.now
  s1.setScreenSize.armVerticalSync t

end Sys2Proof.Machine
end

