-- ==== Sys2Proof/Machine/Clock.lean ====
section
/-! DEFINITION. The virtual clock's tick and the device service, which end every `cycle()` (60_exceptions.md R370, R381
to R389, R396), and `boot()` of the devices, which precedes the first (70_reset_and_hazards.md R423). -/

namespace Sys2Proof.Machine

/-- `sync()` (R382). `hz` is unspecified when the period is 0. -/
def State.sync (s : State) : State :=
  let (t, s1) := s.now
  let period : Rat := (t - s1.clock.lastSyncTimeNS) / ((s1.clock.cycles : Rat) - (s1.clock.lastSyncCycles : Rat))
  let s2 := s1.setDraws (s1.draws + 1)
  s2.setClock
    { s2.clock with
      cyclePeriodNS := period
      hz := if 0 < period then 1000000000 / period else Config.freeRat s1.draws
      lastSyncTimeNS := t
      lastSyncCycles := s2.clock.cycles }

/-- "half a check-interval", in ns (R383, D30). -/
def State.halfInterval (s : State) : Rat := (s.cfg.timerCheckCycles : Rat) * s.clock.cyclePeriodNS / 2

/-- The firing condition at time `t`: `t > trig or trig < t + halfInterval` (R383). -/
def isDue (t half : Rat) (tm : Timer) : Bool := decide (tm.trigger < t) || decide (tm.trigger < t + half)

/-- A callback called at time `t` (R405, R410). -/
def State.runCallback (s : State) (t : Rat) : Callback → State
  | .pit c => s.fire c t
  | .verticalSync => s.verticalSync t

/-- One due timer's turn: if its trigger time is still pending it is removed, and then its callback runs (R383). -/
def State.fireTimer (s : State) (t : Rat) (tm : Timer) : State :=
  if isPending tm.trigger s.clock.timers then (s.removeTimer tm.trigger).runCallback t tm.callback else s

/-- The due timers fire one by one in an unspecified order: each turn goes to a freely chosen one of those left (U8,
log 15). The first argument counts the turns left. -/
def State.fireDue (t : Rat) : Nat → List Timer → State → State
  | 0, _, s => s
  | n + 1, due, s =>
    let k := Config.freeNat s.draws % due.length
    match due[k]? with
    | none => s
    | some tm => State.fireDue t n (due.eraseIdx k) ((s.setDraws (s.draws + 1)).fireTimer t tm)

/-- `checkTimers()` (R383): what is due is settled before the first callback runs. -/
def State.checkTimers (s : State) : State :=
  let (t, s1) := s.now
  let due := s1.clock.timers.filter (isDue t s1.halfInterval)
  State.fireDue t due.length due s1

/-- `tick()` (R381): synchronisation before the timer scan (D30). -/
def State.tick (s : State) : State :=
  let s1 := s.setClock { s.clock with cycles := s.clock.cycles + 1 }
  let s2 := if s1.clock.cycles % s1.cfg.timeSyncCycles = 0 then s1.sync else s1
  if s2.clock.cycles % s2.cfg.timerCheckCycles = 0 then s2.checkTimers else s2

/-- `deviceCycle()` of a device (R396). The interval timer's count is computed on demand, so its service is a no-op
(R406); the interrupt controller reaches no CPU state (R397, R364; log 24); the video adapter scans (R410). -/
def deviceCycle (d : Device) (s : State) : State :=
  match d with
  | .intervalTimer => s
  | .interruptController => s
  | .videoAdapter => s.videoCycle

/-- `boot()` of a device (R396). Of the interval timer and the interrupt controller the spec says nothing that boot does
(log 24). -/
def bootDevice (d : Device) (s : State) : State :=
  match d with
  | .intervalTimer => s
  | .interruptController => s
  | .videoAdapter => s.bootVideo

/-- `boot()` of every device, once, in DEVICES order, between construction and the first `cycle()` (R396,
70_reset_and_hazards.md R423). -/
def State.boot (s : State) : State := s.cfg.devices.foldl (fun s d => bootDevice d s) s

/-- The device services, in DEVICES order (R370, D33). -/
def State.serviceDevices (s : State) : State := s.cfg.devices.foldl (fun s d => deviceCycle d s) s

/-- What every `cycle()` call does after the instruction, also when halted (R370). -/
def State.endCycle (s : State) : State := s.tick.serviceDevices

end Sys2Proof.Machine
end

