-- ==== Sys2Proof/Machine/Operands.lean ====
section
/-! DEFINITION. Operand resolution: effective addresses, r/m operands and the other specifiers (30_encoding.md R100 to
R112). -/

namespace Sys2Proof.Machine

/-- The base expression of the effective-address table (30_encoding.md R104). -/
def State.eaBase (s : State) : BaseKind → Word
  | .bxSi => s.reg16 .bx + s.reg16 .si
  | .bxDi => s.reg16 .bx + s.reg16 .di
  | .bpSi => s.reg16 .bp + s.reg16 .si
  | .bpDi => s.reg16 .bp + s.reg16 .di
  | .si => s.reg16 .si
  | .di => s.reg16 .di
  | .bp => s.reg16 .bp
  | .bx => s.reg16 .bx

/-- `EAoff = (base + disp) mod 2^16`, an 8-bit displacement sign-extended (R104, R105). -/
def State.eaOff (s : State) : MemOp → Word
  | .base b => s.eaBase b
  | .direct off => off
  | .disp8 b d => s.eaBase b + d.signExtend 16
  | .disp16 b d => s.eaBase b + d

/-- An r/m operand whose address has been computed, once per instruction (R102). -/
inductive Place (R : Type)
  | reg (r : R)
  | mem (seg : SReg) (off : Word)
  deriving DecidableEq, Repr

def State.place {R : Type} (s : State) : RM R → Place R
  | .reg r => .reg r
  | .mem m => .mem m.seg (s.eaOff m)

/-- `ReadE(8)` of a resolved operand. -/
def State.getPlace8 (s : State) : Place Reg8 → Byte
  | .reg r => s.reg8 r
  | .mem seg off => s.read8 seg off

/-- `ReadE(16)` of a resolved operand. -/
def State.getPlace16 (s : State) : Place Reg16 → Word
  | .reg r => s.reg16 r
  | .mem seg off => s.read16 seg off

/-- `WriteE(8, v)` of a resolved operand. -/
def State.putPlace8 (s : State) (p : Place Reg8) (v : Byte) : State :=
  match p with
  | .reg r => s.setReg8 r v
  | .mem seg off => s.write8 seg off v

/-- `WriteE(16, v)` of a resolved operand. -/
def State.putPlace16 (s : State) (p : Place Reg16) (v : Word) : State :=
  match p with
  | .reg r => s.setReg16 r v
  | .mem seg off => s.write16 seg off v

/-- `ReadE(8)`. -/
def State.readE8 (s : State) (e : RM8) : Byte := s.getPlace8 (s.place e)

/-- `ReadE(16)`. -/
def State.readE16 (s : State) (e : RM16) : Word := s.getPlace16 (s.place e)

/-- `WriteE(8, v)`, for an instruction that changed no register before it. -/
def State.writeE8 (s : State) (e : RM8) (v : Byte) : State := s.putPlace8 (s.place e) v

/-- `WriteE(16, v)`, likewise. -/
def State.writeE16 (s : State) (e : RM16) (v : Word) : State := s.putPlace16 (s.place e) v

/-- The `Mp` operand of a memory r/m operand: offset word, then segment word two bytes on, modulo 2^16 (R110). -/
def State.readFar (s : State) (m : MemOp) : Word × Word :=
  (s.read16 m.seg (s.eaOff m), s.read16 m.seg (s.eaOff m + 2))

/-- The target of a relative operand: from the byte after the instruction (R109). -/
def State.relTarget (s : State) (len : Nat) (rel : Word) : Word := s.nextIp len + rel

end Sys2Proof.Machine
end

