-- ==== Sys2Proof/Machine/Adjust.lean ====
section
/-! DEFINITION. Decimal and ASCII adjust (40_arithmetic.md R156 to R161, D37). -/

namespace Sys2Proof.Machine

/-- The low digit needs adjusting: `(AL & 0x0F) > 9 or AF == 1`. -/
def State.lowAdjust (s : State) : Bool := decide (9 < (s.reg8 .al &&& 0x0F).toNat) || s.flags.af

/-- The high digit needs adjusting: `old > 0x99 or oldCF == 1`. -/
def State.highAdjust (s : State) : Bool := decide (0x99 < (s.reg8 .al).toNat) || s.flags.cf

/-- The end of DAA and DAS: AL, AF, CF, SF, ZF, PF written, OF unspecified. -/
def State.decimalResult (s : State) (al : Byte) : State :=
  ((s.setReg8 .al al).setFlags (szpFlags al { s.flags with af := s.lowAdjust, cf := s.highAdjust })).freeFlags [.ofl]

/-- DAA (R156). -/
def execDaa (s : State) : Outcome State :=
  let a1 := if s.lowAdjust then s.reg8 .al + 0x06 else s.reg8 .al
  .next ((s.decimalResult (if s.highAdjust then a1 + 0x60 else a1)).advance 1)

/-- DAS (R157). -/
def execDas (s : State) : Outcome State :=
  let a1 := if s.lowAdjust then s.reg8 .al - 0x06 else s.reg8 .al
  .next ((s.decimalResult (if s.highAdjust then a1 - 0x60 else a1)).advance 1)

/-- The end of AAA and AAS: AX, AF and CF written, the other status flags unspecified. -/
def State.asciiResult (s : State) (al ah : Byte) : State :=
  ((s.setReg16 .ax (wordOfBytes (al &&& 0x0F) ah)).setFlags
    { s.flags with af := s.lowAdjust, cf := s.lowAdjust }).freeFlags [.ofl, .sf, .zf, .pf]

/-- AAA (R158): AL and AH are adjusted as separate bytes. -/
def execAaa (s : State) : Outcome State :=
  .next ((if s.lowAdjust then s.asciiResult (s.reg8 .al + 6) (s.reg8 .ah + 1)
    else s.asciiResult (s.reg8 .al) (s.reg8 .ah)).advance 1)

/-- AAS (R159). -/
def execAas (s : State) : Outcome State :=
  .next ((if s.lowAdjust then s.asciiResult (s.reg8 .al - 6) (s.reg8 .ah - 1)
    else s.asciiResult (s.reg8 .al) (s.reg8 .ah)).advance 1)

/-- AAM (R160): base 0 is the divide error. -/
def execAam (base : Byte) (s : State) : Outcome State :=
  if base = 0 then .next ((s.freeFlags [.ofl, .sf, .zf, .af, .pf, .cf]).trap 0 (s.nextIp 2))
  else
    let q := BitVec.ofNat 8 ((s.reg8 .al).toNat / base.toNat)
    let r := BitVec.ofNat 8 ((s.reg8 .al).toNat % base.toNat)
    .next ((((s.setReg16 .ax (wordOfBytes r q)).setFlags (szpFlags r s.flags)).freeFlags [.ofl, .af, .cf]).advance 2)

/-- AAD (R161). -/
def execAad (base : Byte) (s : State) : Outcome State :=
  let r := s.reg8 .al + s.reg8 .ah * base
  .next ((((s.setReg16 .ax (wordOfBytes r 0)).setFlags (szpFlags r s.flags)).freeFlags [.ofl, .af, .cf]).advance 2)

end Sys2Proof.Machine
end

