-- ==== Sys2Proof/Machine/Arithmetic.lean ====
section
/-! DEFINITION. Arithmetic instructions (40_arithmetic.md R143 to R155, R162, R163) and the operand forms of the
two-operand, INC/DEC and GRP3 families, which the logic instructions share. -/

namespace Sys2Proof.Machine

/-- A two-operand operation at width `n`: the result, and the state with the flags written (R143). -/
abbrev AluOp := (n : Nat) → BitVec n → BitVec n → State → BitVec n × State

/-- A one-operand operation at width `n`. -/
abbrev UnaryOp := (n : Nat) → BitVec n → State → BitVec n × State

/-- The nine forms of R143 (and 82): `dst <- op(a, b)`. -/
def applyAlu (op : AluOp) (f : AluForm) (s : State) : State :=
  match f with
  | .ebGb e g => let r := op 8 (s.readE8 e) (s.reg8 g) s; r.2.writeE8 e r.1
  | .evGv e g => let r := op 16 (s.readE16 e) (s.reg16 g) s; r.2.writeE16 e r.1
  | .gbEb g e => let r := op 8 (s.reg8 g) (s.readE8 e) s; r.2.setReg8 g r.1
  | .gvEv g e => let r := op 16 (s.reg16 g) (s.readE16 e) s; r.2.setReg16 g r.1
  | .alIb i => let r := op 8 (s.reg8 .al) i s; r.2.setReg8 .al r.1
  | .axIv i => let r := op 16 (s.reg16 .ax) i s; r.2.setReg16 .ax r.1
  | .ebIb e i => let r := op 8 (s.readE8 e) i s; r.2.writeE8 e r.1
  | .evIv e i => let r := op 16 (s.readE16 e) i s; r.2.writeE16 e r.1
  | .ebIbAlt e i => let r := op 8 (s.readE8 e) i s; r.2.writeE8 e r.1
  | .evIbSx e i => let r := op 16 (s.readE16 e) (i.signExtend 16) s; r.2.writeE16 e r.1

/-- The same forms of a pure compare: only the flags are written. -/
def compareAlu (op : AluOp) (f : AluForm) (s : State) : State :=
  match f with
  | .ebGb e g => (op 8 (s.readE8 e) (s.reg8 g) s).2
  | .evGv e g => (op 16 (s.readE16 e) (s.reg16 g) s).2
  | .gbEb g e => (op 8 (s.reg8 g) (s.readE8 e) s).2
  | .gvEv g e => (op 16 (s.reg16 g) (s.readE16 e) s).2
  | .alIb i => (op 8 (s.reg8 .al) i s).2
  | .axIv i => (op 16 (s.reg16 .ax) i s).2
  | .ebIb e i => (op 8 (s.readE8 e) i s).2
  | .evIv e i => (op 16 (s.readE16 e) i s).2
  | .ebIbAlt e i => (op 8 (s.readE8 e) i s).2
  | .evIbSx e i => (op 16 (s.readE16 e) (i.signExtend 16) s).2

/-- The forms of INC and DEC. -/
def applyIncDec (op : UnaryOp) (f : IncForm) (s : State) : State :=
  match f with
  | .r16 r => let v := op 16 (s.reg16 r) s; v.2.setReg16 r v.1
  | .eb e => let v := op 8 (s.readE8 e) s; v.2.writeE8 e v.1
  | .ev e => let v := op 16 (s.readE16 e) s; v.2.writeE16 e v.1

/-- The forms of NEG and NOT. -/
def applyUnary (op : UnaryOp) (f : UnForm) (s : State) : State :=
  match f with
  | .eb e => let v := op 8 (s.readE8 e) s; v.2.writeE8 e v.1
  | .ev e => let v := op 16 (s.readE16 e) s; v.2.writeE16 e v.1

/-! ### Addition and subtraction -/

/-- `a + b + cin` and its flags (R140). -/
def addWith (cin : Bool) : AluOp := fun n a b s =>
  let r := a + b + BitVec.ofNat n cin.toNat
  (r, s.setFlags (addFlags a b cin r s.flags))

/-- `a - b - bin` and its flags (R141). -/
def subWith (bin : Bool) : AluOp := fun n a b s =>
  let r := a - b - BitVec.ofNat n bin.toNat
  (r, s.setFlags (subFlags a b bin r s.flags))

/-- ADD (R144). -/
def execAdd (f : AluForm) (s : State) : Outcome State := .next ((applyAlu (addWith false) f s).advance f.len)

/-- ADC (R145). -/
def execAdc (f : AluForm) (s : State) : Outcome State := .next ((applyAlu (addWith s.flags.cf) f s).advance f.len)

/-- SUB (R146). -/
def execSub (f : AluForm) (s : State) : Outcome State := .next ((applyAlu (subWith false) f s).advance f.len)

/-- SBB (R147). -/
def execSbb (f : AluForm) (s : State) : Outcome State := .next ((applyAlu (subWith s.flags.cf) f s).advance f.len)

/-- CMP (R148). -/
def execCmp (f : AluForm) (s : State) : Outcome State := .next ((compareAlu (subWith false) f s).advance f.len)

/-- INC writes all six flags, CF included (R149, D9). -/
def execInc (f : IncForm) (s : State) : Outcome State :=
  .next ((applyIncDec (fun n a s => addWith false n a 1 s) f s).advance f.len)

/-- DEC, CF included (R150). -/
def execDec (f : IncForm) (s : State) : Outcome State :=
  .next ((applyIncDec (fun n a s => subWith false n a 1 s) f s).advance f.len)

/-- NEG (R151). -/
def execNeg (f : UnForm) (s : State) : Outcome State :=
  .next ((applyUnary (fun n b s => subWith false n 0 b s) f s).advance f.len)

/-! ### Multiplication (R152, R153) -/

/-- CF and OF, and the four flags a multiplication leaves unspecified. -/
def State.multiplyFlags (s : State) (big : Bool) : State :=
  (s.setFlags { s.flags with cf := big, ofl := big }).freeFlags [.sf, .zf, .af, .pf]

/-- The 32-bit product in DX:AX. -/
def State.setDxAx (s : State) (p : BitVec 32) : State :=
  (s.setReg16 .ax (p.extractLsb' 0 16)).setReg16 .dx (p.extractLsb' 16 16)

/-- MUL (R152). -/
def execMul (f : UnForm) (s : State) : Outcome State :=
  match f with
  | .eb e =>
    let p := BitVec.ofNat 16 ((s.reg8 .al).toNat * (s.readE8 e).toNat)
    .next (((s.setReg16 .ax p).multiplyFlags (hiByte p != 0)).advance f.len)
  | .ev e =>
    let p := BitVec.ofNat 32 ((s.reg16 .ax).toNat * (s.readE16 e).toNat)
    .next (((s.setDxAx p).multiplyFlags (p.extractLsb' 16 16 != 0)).advance f.len)

/-- IMUL (R153). -/
def execImul (f : UnForm) (s : State) : Outcome State :=
  match f with
  | .eb e =>
    let p := BitVec.ofInt 16 ((s.reg8 .al).toInt * (s.readE8 e).toInt)
    .next (((s.setReg16 .ax p).multiplyFlags (p != (loByte p).signExtend 16)).advance f.len)
  | .ev e =>
    let p := BitVec.ofInt 32 ((s.reg16 .ax).toInt * (s.readE16 e).toInt)
    .next (((s.setDxAx p).multiplyFlags (p != (p.extractLsb' 0 16).signExtend 32)).advance f.len)

/-! ### Division (R154, R155; 60_exceptions.md R361) -/

/-- The six flags a division leaves unspecified, on both paths. -/
def State.divideFlags (s : State) : State := s.freeFlags [.ofl, .sf, .zf, .af, .pf, .cf]

/-- DX:AX as one number. -/
def State.dxAx (s : State) : BitVec 32 := s.reg16 .dx ++ s.reg16 .ax

/-- DIV (R154): the divide-error trap when the divisor is 0 or the quotient does not fit; then no register is written. -/
def execDiv (f : UnForm) (s : State) : Outcome State :=
  match f with
  | .eb e =>
    let d := (s.readE8 e).toNat
    let n := (s.reg16 .ax).toNat
    let s1 := s.divideFlags
    if d = 0 ∨ 0xFF < n / d then .next (s1.trap 0 (s.nextIp f.len))
    else .next ((s1.setReg16 .ax (wordOfBytes (BitVec.ofNat 8 (n / d)) (BitVec.ofNat 8 (n % d)))).advance f.len)
  | .ev e =>
    let d := (s.readE16 e).toNat
    let n := s.dxAx.toNat
    let s1 := s.divideFlags
    if d = 0 ∨ 0xFFFF < n / d then .next (s1.trap 0 (s.nextIp f.len))
    else .next (((s1.setReg16 .ax (BitVec.ofNat 16 (n / d))).setReg16 .dx (BitVec.ofNat 16 (n % d))).advance f.len)

/-- IDIV (R155): truncated division; the range of quotients is symmetric (D19). -/
def execIdiv (f : UnForm) (s : State) : Outcome State :=
  match f with
  | .eb e =>
    let d := (s.readE8 e).toInt
    let n := (s.reg16 .ax).toInt
    let s1 := s.divideFlags
    if d = 0 ∨ 127 < n.tdiv d ∨ n.tdiv d < -127 then .next (s1.trap 0 (s.nextIp f.len))
    else .next ((s1.setReg16 .ax (wordOfBytes (BitVec.ofInt 8 (n.tdiv d)) (BitVec.ofInt 8 (n.tmod d)))).advance f.len)
  | .ev e =>
    let d := (s.readE16 e).toInt
    let n := s.dxAx.toInt
    let s1 := s.divideFlags
    if d = 0 ∨ 32767 < n.tdiv d ∨ n.tdiv d < -32767 then .next (s1.trap 0 (s.nextIp f.len))
    else
      .next (((s1.setReg16 .ax (BitVec.ofInt 16 (n.tdiv d))).setReg16 .dx (BitVec.ofInt 16 (n.tmod d))).advance f.len)

/-! ### Sign extension -/

/-- CBW (R162). -/
def execCbw (s : State) : Outcome State := .next ((s.setReg16 .ax ((s.reg8 .al).signExtend 16)).advance 1)

/-- CWD (R163). -/
def execCwd (s : State) : Outcome State :=
  .next ((s.setReg16 .dx (if (s.reg16 .ax).msb then 0xFFFF else 0x0000)).advance 1)

end Sys2Proof.Machine
end

