-- ==== Sys2Proof/Machine/Control.lean ====
section
/-! DEFINITION. Control transfer (42_control_transfer.md R210 to R241). -/

namespace Sys2Proof.Machine

/-- JMP short and near relative (R211). -/
def execJmpRel (f : JmpRelForm) (s : State) : Outcome State :=
  match f with
  | .short rel => .next (s.setIp (s.relTarget 2 (rel.signExtend 16)))
  | .near rel => .next (s.setIp (s.relTarget 3 rel))

/-- JMP near indirect (R211). -/
def execJmpRm (e : RM16) (s : State) : Outcome State := .next (s.setIp (s.readE16 e))

/-- JMP far (R212). -/
def execJmpFar (off seg : Word) (s : State) : Outcome State := .next ((s.setSReg .cs seg).setIp off)

/-- JMP far indirect (R212). -/
def execJmpFarMem (e : RM16) (s : State) : Outcome State :=
  match e with
  | .reg _ => .fault .addressingNotImplemented
  | .mem m => .next ((s.setSReg .cs (s.readFar m).2).setIp (s.readFar m).1)

/-- The common semantics of the two-byte conditional jumps (R213). -/
def State.jumpIf (s : State) (taken : Bool) (rel : Byte) : State :=
  if taken then s.setIp (s.relTarget 2 (rel.signExtend 16)) else s.advance 2

def execJo (rel : Byte) (s : State) : Outcome State := .next (s.jumpIf s.flags.ofl rel)
def execJno (rel : Byte) (s : State) : Outcome State := .next (s.jumpIf (!s.flags.ofl) rel)
def execJb (rel : Byte) (s : State) : Outcome State := .next (s.jumpIf s.flags.below rel)
def execJnb (rel : Byte) (s : State) : Outcome State := .next (s.jumpIf (!s.flags.below) rel)
def execJz (rel : Byte) (s : State) : Outcome State := .next (s.jumpIf s.flags.zf rel)
def execJnz (rel : Byte) (s : State) : Outcome State := .next (s.jumpIf (!s.flags.zf) rel)
def execJbe (rel : Byte) (s : State) : Outcome State := .next (s.jumpIf s.flags.belowOrEqual rel)
def execJa (rel : Byte) (s : State) : Outcome State := .next (s.jumpIf (!s.flags.belowOrEqual) rel)
def execJs (rel : Byte) (s : State) : Outcome State := .next (s.jumpIf s.flags.sf rel)
def execJns (rel : Byte) (s : State) : Outcome State := .next (s.jumpIf (!s.flags.sf) rel)
def execJpe (rel : Byte) (s : State) : Outcome State := .next (s.jumpIf s.flags.pf rel)
def execJpo (rel : Byte) (s : State) : Outcome State := .next (s.jumpIf (!s.flags.pf) rel)
def execJl (rel : Byte) (s : State) : Outcome State := .next (s.jumpIf s.flags.less rel)
def execJge (rel : Byte) (s : State) : Outcome State := .next (s.jumpIf (!s.flags.less) rel)
def execJle (rel : Byte) (s : State) : Outcome State := .next (s.jumpIf s.flags.lessOrEqual rel)
def execJg (rel : Byte) (s : State) : Outcome State := .next (s.jumpIf (!s.flags.lessOrEqual) rel)

/-- `CX <- (CX - 1) mod 2^16`, no flag touched (R230). -/
def State.countDown (s : State) : State := s.setReg16 .cx (s.reg16 .cx - 1)

/-- LOOP (R230). -/
def execLoop (rel : Byte) (s : State) : Outcome State :=
  .next (s.countDown.jumpIf (s.countDown.reg16 .cx != 0) rel)

/-- LOOPZ (R231). -/
def execLoopz (rel : Byte) (s : State) : Outcome State :=
  .next (s.countDown.jumpIf (s.countDown.reg16 .cx != 0 && s.flags.zf) rel)

/-- LOOPNZ (R232). -/
def execLoopnz (rel : Byte) (s : State) : Outcome State :=
  .next (s.countDown.jumpIf (s.countDown.reg16 .cx != 0 && !s.flags.zf) rel)

/-- JCXZ (R233). -/
def execJcxz (rel : Byte) (s : State) : Outcome State := .next (s.jumpIf (s.reg16 .cx == 0) rel)

/-! ### Calls and returns -/

/-- The near transfer of a CALL: the target was read before the push (R234). -/
def State.callNear (s : State) (target : Word) (len : Nat) : State := (s.push16 (s.nextIp len)).setIp target

/-- CALL near (R234). -/
def execCallRel (rel : Word) (s : State) : Outcome State := .next (s.callNear (s.relTarget 3 rel) 3)

/-- CALL near indirect (R234). -/
def execCallRm (e : RM16) (s : State) : Outcome State := .next (s.callNear (s.readE16 e) (2 + e.dispLen))

/-- `Push16(CS) ; Push16(IPnext) ; CS <- seg ; IP <- off` (R235). -/
def State.callTo (s : State) (off seg : Word) (len : Nat) : State :=
  ((((s.push16 (s.sreg .cs)).push16 (s.nextIp len))).setSReg .cs seg).setIp off

/-- CALL far (R235). -/
def execCallFar (off seg : Word) (s : State) : Outcome State := .next (s.callTo off seg 5)

/-- CALL far indirect (R235). -/
def execCallFarMem (e : RM16) (s : State) : Outcome State :=
  match e with
  | .reg _ => .fault .addressingNotImplemented
  | .mem m => .next (s.callTo (s.readFar m).1 (s.readFar m).2 (2 + e.dispLen))

/-- `IP <- Pop16()`. -/
def State.popIp (s : State) : State :=
  let (v, s1) := s.pop16
  s1.setIp v

/-- `CS <- Pop16()`. -/
def State.popCs (s : State) : State :=
  let (v, s1) := s.pop16
  s1.setSReg .cs v

/-- `SP <- (SP + n) mod 2^16`. -/
def State.releaseStack (s : State) (n : Word) : State := s.setReg16 .sp (s.reg16 .sp + n)

/-- RET (R236). -/
def execRet (s : State) : Outcome State := .next s.popIp

/-- RET n (R236). -/
def execRetImm (n : Word) (s : State) : Outcome State := .next (s.popIp.releaseStack n)

/-- RETF (R237). -/
def execRetf (s : State) : Outcome State := .next s.popIp.popCs

/-- RETF n (R237). -/
def execRetfImm (n : Word) (s : State) : Outcome State := .next (s.popIp.popCs.releaseStack n)

/-! ### Software interrupts -/

/-- INT n (R238). -/
def execInt (n : Byte) (s : State) : Outcome State := .next (s.trap n (s.nextIp 2))

/-- INT3 (R239). -/
def execInt3 (s : State) : Outcome State := .next (s.trap 3 (s.nextIp 1))

/-- INTO (R240). -/
def execInto (s : State) : Outcome State :=
  if s.flags.ofl then .next (s.trap 4 (s.nextIp 1)) else .next (s.advance 1)

/-- IRET (R241). -/
def execIret (s : State) : Outcome State := .next s.interruptReturn

end Sys2Proof.Machine
end

