-- ==== Sys2Proof/Machine/Logic.lean ====
section
/-! DEFINITION. Logic instructions (41_logic_shift.md R180 to R185). -/

namespace Sys2Proof.Machine

/-- `LOGICFLAGS_N(r)` (R180): AF is unspecified. -/
def State.logicResult {n : Nat} (r : BitVec n) (s : State) : BitVec n × State :=
  (r, (s.setFlags (logicFlags r s.flags)).freeFlags [.af])

def andOp : AluOp := fun _ a b s => s.logicResult (a &&& b)

def orOp : AluOp := fun _ a b s => s.logicResult (a ||| b)

def xorOp : AluOp := fun _ a b s => s.logicResult (a ^^^ b)

/-- AND (R181). -/
def execAnd (f : AluForm) (s : State) : Outcome State := .next ((applyAlu andOp f s).advance f.len)

/-- OR (R182). -/
def execOr (f : AluForm) (s : State) : Outcome State := .next ((applyAlu orOp f s).advance f.len)

/-- XOR (R183). -/
def execXor (f : AluForm) (s : State) : Outcome State := .next ((applyAlu xorOp f s).advance f.len)

/-- NOT changes no flag (R184). -/
def execNot (f : UnForm) (s : State) : Outcome State :=
  .next ((applyUnary (fun _ v s => (~~~v, s)) f s).advance f.len)

/-- The forms of TEST: the flags of `a & b`, nothing written back (R185). -/
def applyTest (f : TestForm) (s : State) : State :=
  match f with
  | .gbEb g e => (andOp 8 (s.reg8 g) (s.readE8 e) s).2
  | .gvEv g e => (andOp 16 (s.reg16 g) (s.readE16 e) s).2
  | .alIb i => (andOp 8 (s.reg8 .al) i s).2
  | .axIv i => (andOp 16 (s.reg16 .ax) i s).2
  | .ebIb e i => (andOp 8 (s.readE8 e) i s).2
  | .evIv e i => (andOp 16 (s.readE16 e) i s).2

/-- TEST (R185). -/
def execTest (f : TestForm) (s : State) : Outcome State := .next ((applyTest f s).advance f.len)

end Sys2Proof.Machine
end

