-- ==== Sys2Proof/Machine/Ports.lean ====
section
/-! DEFINITION. The port multiplexer (60_exceptions.md R395, 20_memory.md R72). -/

namespace Sys2Proof.Machine

/-- A port some device claims: a count port of the interval timer, or its control port (R401). -/
inductive PitPort
  | count (c : Channel)
  | control
  deriving DecidableEq, Repr

/-- PORT_MAP: four consecutive ports from the configured base (R401); every other port is unclaimed (log 24).
Whether DEVICES lists the timer does not matter: a timer with ports answers them (DESIGN CHOICE, log 28).
The spec does not say what a base above 0xFFFC does: the ports run on from 0xFFFF to 0x0000 (DESIGN CHOICE, log 31). -/
def portMap (cfg : Config) (port : Word) : Option PitPort :=
  match cfg.pitBase with
  | none => none
  | some base =>
    match (port - base).toNat with
    | 0 => some (.count .ch0)
    | 1 => some (.count .ch1)
    | 2 => some (.count .ch2)
    | 3 => some .control
    | _ => none

/-- `PortRead(p, 1)` (R395): a port no device claims reads 0xFF; the timer's control port refuses (R402). -/
def State.portRead8 (s : State) (port : Word) : Except Fault (Byte × State) :=
  match portMap s.cfg port with
  | none => .ok (0xFF, s)
  | some .control => .error .devicePortError
  | some (.count c) => .ok (s.readCount c)

/-- `PortRead(p, 2)` (R395): one transaction of size 2. The spec gives the timer's word read no value, so the word is
free; the read's effect on the channel is that of one read (R403, log 19). -/
def State.portRead16 (s : State) (port : Word) : Except Fault (Word × State) :=
  match portMap s.cfg port with
  | none => .ok (0xFFFF, s)
  | some .control => .error .devicePortError
  | some (.count c) => .ok (s.readCount c).2.drawWord

/-- `PortWrite(p, v, 1)`: a write to a port no device claims is ignored. -/
def State.portWrite8 (s : State) (port : Word) (v : Byte) : State :=
  match portMap s.cfg port with
  | none => s
  | some .control => s.writeControl v
  | some (.count c) => s.writeCount c v

/-- `PortWrite(p, v, 2)`: the timer treats it as a write of the low byte (R401, D45). -/
def State.portWrite16 (s : State) (port : Word) (v : Word) : State := s.portWrite8 port (loByte v)

end Sys2Proof.Machine
end

