-- ==== Sys2Proof/Machine/Misc.lean ====
section
/-! DEFINITION. Prefix instructions, flag control, port input and output, miscellaneous and unimplemented encodings
(45_prefix_flag_io_misc.md R310 to R340). -/

namespace Sys2Proof.Machine

/-! ### Prefix instructions (R310 to R312): the latches are kept by `step` after these seven -/

/-- Setting one override latch clears the other three (R310, D16). -/
def State.setOverride (s : State) (r : SReg) : State := (s.setOvr (some r)).advance 1

def execSegEs (s : State) : Outcome State := .next (s.setOverride .es)
def execSegCs (s : State) : Outcome State := .next (s.setOverride .cs)
def execSegSs (s : State) : Outcome State := .next (s.setOverride .ss)
def execSegDs (s : State) : Outcome State := .next (s.setOverride .ds)

/-- REPZ (R311). -/
def execRepz (s : State) : Outcome State := .next ((s.setRep (some .repz)).advance 1)

/-- REPNZ (R311). -/
def execRepnz (s : State) : Outcome State := .next ((s.setRep (some .repnz)).advance 1)

/-- LOCK (R312). -/
def execLock (s : State) : Outcome State := .next (s.advance 1)

/-! ### Flag control (R314 to R320) -/

def execClc (s : State) : Outcome State := .next ((s.setFlags { s.flags with cf := false }).advance 1)
def execStc (s : State) : Outcome State := .next ((s.setFlags { s.flags with cf := true }).advance 1)
def execCmc (s : State) : Outcome State := .next ((s.setFlags { s.flags with cf := !s.flags.cf }).advance 1)
def execCld (s : State) : Outcome State := .next ((s.setFlags { s.flags with df := false }).advance 1)
def execStd (s : State) : Outcome State := .next ((s.setFlags { s.flags with df := true }).advance 1)
def execCli (s : State) : Outcome State := .next ((s.setFlags { s.flags with ifl := false }).advance 1)
def execSti (s : State) : Outcome State := .next ((s.setFlags { s.flags with ifl := true }).advance 1)

/-! ### Miscellaneous (R321 to R324) -/

def execNop (s : State) : Outcome State := .next (s.advance 1)

/-- HLT (R322). -/
def execHlt (s : State) : Outcome State := .next ((s.setHalted true).advance 1)

/-- WAIT never waits (R323). -/
def execWait (s : State) : Outcome State := .next (s.advance 1)

/-- ESC: the displacement is consumed, nothing is read (R324). -/
def execEsc (_op _ign : BitVec 3) (e : RM16) (s : State) : Outcome State := .next (s.advance (2 + e.dispLen))

/-! ### Port input and output (R330 to R333) -/

/-- The accumulator receives the port's value; a refusing device is a fault (R354). -/
def State.input (s : State) (w : Width) (port : Word) (len : Nat) : Outcome State :=
  match w with
  | .byte =>
    match s.portRead8 port with
    | .error f => .fault f
    | .ok (v, s1) => .next ((s1.setReg8 .al v).advance len)
  | .word =>
    match s.portRead16 port with
    | .error f => .fault f
    | .ok (v, s1) => .next ((s1.setReg16 .ax v).advance len)

def State.output (s : State) (w : Width) (port : Word) (len : Nat) : State :=
  match w with
  | .byte => (s.portWrite8 port (s.reg8 .al)).advance len
  | .word => (s.portWrite16 port (s.reg16 .ax)).advance len

/-- IN with an immediate port (R330). -/
def execInImm (w : Width) (port : Byte) (s : State) : Outcome State := s.input w (port.setWidth 16) 2

/-- IN with the port in DX (R331). -/
def execInDx (w : Width) (s : State) : Outcome State := s.input w (s.reg16 .dx) 1

/-- OUT with an immediate port (R332). -/
def execOutImm (w : Width) (port : Byte) (s : State) : Outcome State := .next (s.output w (port.setWidth 16) 2)

/-- OUT with the port in DX (R333). -/
def execOutDx (w : Width) (s : State) : Outcome State := .next (s.output w (s.reg16 .dx) 1)

/-! ### Unimplemented encodings (R340): the outcome NotImplemented(opcode), a refusal by 60_exceptions.md R355 -/

def execUnimplOp (op : Byte) (_s : State) : Outcome State := .refused (.notImplemented op)

def execUnimplGroup (op _m : Byte) (_s : State) : Outcome State := .refused (.notImplemented op)

end Sys2Proof.Machine
end

