-- ==== Sys2Proof/Machine/Shift.lean ====
section
/-! DEFINITION. Shifts and rotates (41_logic_shift.md R186 to R193): `cnt` single-bit steps, `cnt` not masked (D20). -/

namespace Sys2Proof.Machine

/-- One single-bit step at width `n`: the value and CF after it, from the value and CF before it. -/
abbrev ShiftStep := (n : Nat) → BitVec n → Bool → BitVec n × Bool

/-- A bit as the least significant bit of a value. -/
def lowBit (n : Nat) (b : Bool) : BitVec n := (BitVec.ofBool b).setWidth n

/-- A bit as the most significant bit of a value. -/
def highBit (n : Nat) (b : Bool) : BitVec n := lowBit n b <<< (n - 1)

def rolStep : ShiftStep := fun n v _ => ((v <<< 1) ||| lowBit n v.msb, v.msb)

def rorStep : ShiftStep := fun n v _ => ((v >>> 1) ||| highBit n (v.getLsbD 0), v.getLsbD 0)

def rclStep : ShiftStep := fun n v c => ((v <<< 1) ||| lowBit n c, v.msb)

def rcrStep : ShiftStep := fun n v c => ((v >>> 1) ||| highBit n c, v.getLsbD 0)

def shlStep : ShiftStep := fun _ v _ => (v <<< 1, v.msb)

def shrStep : ShiftStep := fun _ v _ => (v >>> 1, v.getLsbD 0)

def sarStep : ShiftStep := fun n v _ => ((v >>> 1) ||| highBit n v.msb, v.getLsbD 0)

/-- `repeat cnt times: (v, CF) <- step(v, CF)` (R186). -/
def repeatStep (step : ShiftStep) {n : Nat} : Nat → BitVec n × Bool → BitVec n × Bool
  | 0, x => x
  | k + 1, x => repeatStep step k (step n x.1 x.2)

/-- OF after a one-bit shift or rotate, from the original value, the result and the new CF. -/
abbrev ShiftOverflow := (n : Nat) → BitVec n → BitVec n → Bool → Bool

/-- ROL, RCL, SHL: the new sign bit against CF (R187, R189, R191). -/
def leftOverflow : ShiftOverflow := fun _ _ v cf => v.msb ^^ cf

/-- ROR, RCR: the two highest bits of the result (R188, R190). -/
def rotateRightOverflow : ShiftOverflow := fun n _ v _ => v.msb ^^ v.getLsbD (n - 2)

/-- SHR: the sign bit of the original operand (R192). -/
def shrOverflow : ShiftOverflow := fun _ v0 _ _ => v0.msb

/-- SAR: 0 (R193). -/
def sarOverflow : ShiftOverflow := fun _ _ _ _ => false

/-- What an instruction of this family is: its step, its one-bit overflow, and whether it is a shift, which also writes
SF, ZF, PF and leaves AF unspecified (R186). -/
structure ShiftOp where
  step     : ShiftStep
  overflow : ShiftOverflow
  isShift  : Bool

/-- The flags after `cnt` ≥ 1 steps from `v0` to `v` with the carry `cf` (R186). -/
def State.shiftFlags (s : State) (op : ShiftOp) {n : Nat} (cnt : Nat) (v0 v : BitVec n) (cf : Bool) : State :=
  let s1 := s.setFlags { s.flags with cf := cf }
  let s2 := if cnt = 1 then s1.setFlags { s1.flags with ofl := op.overflow n v0 v cf } else s1.freeFlags [.ofl]
  if op.isShift then (s2.setFlags (szpFlags v s2.flags)).freeFlags [.af] else s2

/-- The byte form: with a count of 0 nothing is written. -/
def applyShift8 (op : ShiftOp) (e : RM8) (cnt : Nat) (s : State) : State :=
  let v0 := s.readE8 e
  let r := repeatStep op.step cnt (v0, s.flags.cf)
  if cnt = 0 then s else (s.writeE8 e r.1).shiftFlags op cnt v0 r.1 r.2

/-- The word form. -/
def applyShift16 (op : ShiftOp) (e : RM16) (cnt : Nat) (s : State) : State :=
  let v0 := s.readE16 e
  let r := repeatStep op.step cnt (v0, s.flags.cf)
  if cnt = 0 then s else (s.writeE16 e r.1).shiftFlags op cnt v0 r.1 r.2

/-- The four forms; the count of D2 and D3 is the CL of before the instruction (R186). -/
def applyShift (op : ShiftOp) (f : ShiftForm) (s : State) : State :=
  match f with
  | .eb1 e => applyShift8 op e 1 s
  | .ev1 e => applyShift16 op e 1 s
  | .ebCl e => applyShift8 op e (s.reg8 .cl).toNat s
  | .evCl e => applyShift16 op e (s.reg8 .cl).toNat s

def rolOp : ShiftOp := { step := rolStep, overflow := leftOverflow, isShift := false }
def rorOp : ShiftOp := { step := rorStep, overflow := rotateRightOverflow, isShift := false }
def rclOp : ShiftOp := { step := rclStep, overflow := leftOverflow, isShift := false }
def rcrOp : ShiftOp := { step := rcrStep, overflow := rotateRightOverflow, isShift := false }
def shlOp : ShiftOp := { step := shlStep, overflow := leftOverflow, isShift := true }
def shrOp : ShiftOp := { step := shrStep, overflow := shrOverflow, isShift := true }
def sarOp : ShiftOp := { step := sarStep, overflow := sarOverflow, isShift := true }

/-- ROL (R187). -/
def execRol (f : ShiftForm) (s : State) : Outcome State := .next ((applyShift rolOp f s).advance f.len)

/-- ROR (R188). -/
def execRor (f : ShiftForm) (s : State) : Outcome State := .next ((applyShift rorOp f s).advance f.len)

/-- RCL (R189). -/
def execRcl (f : ShiftForm) (s : State) : Outcome State := .next ((applyShift rclOp f s).advance f.len)

/-- RCR (R190). -/
def execRcr (f : ShiftForm) (s : State) : Outcome State := .next ((applyShift rcrOp f s).advance f.len)

/-- SHL, also SAL (R191). -/
def execShl (f : ShiftForm) (s : State) : Outcome State := .next ((applyShift shlOp f s).advance f.len)

/-- SHR (R192). -/
def execShr (f : ShiftForm) (s : State) : Outcome State := .next ((applyShift shrOp f s).advance f.len)

/-- SAR (R193). -/
def execSar (f : ShiftForm) (s : State) : Outcome State := .next ((applyShift sarOp f s).advance f.len)

end Sys2Proof.Machine
end

