-- ==== Sys2Proof/Machine/Strings.lean ====
section
/-! DEFINITION. String instructions and repetition (44_string.md R290 to R296). -/

namespace Sys2Proof.Machine

/-- `delta`: the element size, counted down when DF is 1 (R290). -/
def State.delta (s : State) (size : Word) : Word := if s.flags.df then -size else size

def State.stepSi (s : State) (size : Word) : State := s.setReg16 .si (s.reg16 .si + s.delta size)

def State.stepDi (s : State) (size : Word) : State := s.setReg16 .di (s.reg16 .di + s.delta size)

/-! ### The elements (R292 to R296) -/

def movsbElement (s : State) : State :=
  ((s.write8 .es (s.reg16 .di) (s.read8 .ds (s.reg16 .si))).stepSi 1).stepDi 1

def movswElement (s : State) : State :=
  ((s.write16 .es (s.reg16 .di) (s.read16 .ds (s.reg16 .si))).stepSi 2).stepDi 2

/-- Source minus destination (D41). -/
def cmpsbElement (s : State) : State :=
  (((subWith false 8 (s.read8 .ds (s.reg16 .si)) (s.read8 .es (s.reg16 .di)) s).2).stepSi 1).stepDi 1

def cmpswElement (s : State) : State :=
  (((subWith false 16 (s.read16 .ds (s.reg16 .si)) (s.read16 .es (s.reg16 .di)) s).2).stepSi 2).stepDi 2

/-- Accumulator minus element (D41). -/
def scasbElement (s : State) : State :=
  ((subWith false 8 (s.reg8 .al) (s.read8 .es (s.reg16 .di)) s).2).stepDi 1

def scaswElement (s : State) : State :=
  ((subWith false 16 (s.reg16 .ax) (s.read16 .es (s.reg16 .di)) s).2).stepDi 2

def lodsbElement (s : State) : State := (s.setReg8 .al (s.read8 .ds (s.reg16 .si))).stepSi 1

def lodswElement (s : State) : State := (s.setReg16 .ax (s.read16 .ds (s.reg16 .si))).stepSi 2

def stosbElement (s : State) : State := (s.write8 .es (s.reg16 .di) (s.reg8 .al)).stepDi 1

def stoswElement (s : State) : State := (s.write16 .es (s.reg16 .di) (s.reg16 .ax)).stepDi 2

/-! ### Repetition (R291) -/

/-- A repeated compare stops: REPZ on ZF = 0, REPNZ on ZF = 1. -/
def repStops (k : RepKind) (s : State) : Bool :=
  match k with
  | .repz => !s.flags.zf
  | .repnz => s.flags.zf

/-- The elements still to do, counted by CX: no element of the five instructions changes CX, so the loop `while CX != 0`
takes at most as many turns as CX says at its start. -/
def repeatElement (compares : Bool) (k : RepKind) (element : State → State) : Nat → State → State
  | 0, s => s
  | n + 1, s =>
    let s1 := element s
    let s2 := s1.setReg16 .cx (s1.reg16 .cx - 1)
    if compares && repStops k s2 then s2 else repeatElement compares k element n s2

/-- One step of a string instruction: the whole repetition (D15). -/
def stringStep (compares : Bool) (element : State → State) (s : State) : State :=
  match s.rep with
  | none => element s
  | some k => repeatElement compares k element (s.reg16 .cx).toNat s

def execMovsb (s : State) : Outcome State := .next ((stringStep false movsbElement s).advance 1)
def execMovsw (s : State) : Outcome State := .next ((stringStep false movswElement s).advance 1)
def execCmpsb (s : State) : Outcome State := .next ((stringStep true cmpsbElement s).advance 1)
def execCmpsw (s : State) : Outcome State := .next ((stringStep true cmpswElement s).advance 1)
def execScasb (s : State) : Outcome State := .next ((stringStep true scasbElement s).advance 1)
def execScasw (s : State) : Outcome State := .next ((stringStep true scaswElement s).advance 1)
def execLodsb (s : State) : Outcome State := .next ((stringStep false lodsbElement s).advance 1)
def execLodsw (s : State) : Outcome State := .next ((stringStep false lodswElement s).advance 1)
def execStosb (s : State) : Outcome State := .next ((stringStep false stosbElement s).advance 1)
def execStosw (s : State) : Outcome State := .next ((stringStep false stoswElement s).advance 1)

end Sys2Proof.Machine
end

