-- ==== Sys2Proof/Machine/Transfer.lean ====
section
/-! DEFINITION. Data transfer and stack instructions (43_data_transfer.md R250 to R270). -/

namespace Sys2Proof.Machine

/-- MOV between r/m and register (R250). -/
def execMov (f : MovForm) (s : State) : Outcome State :=
  match f with
  | .ebGb e g => .next ((s.writeE8 e (s.reg8 g)).advance f.len)
  | .evGv e g => .next ((s.writeE16 e (s.reg16 g)).advance f.len)
  | .gbEb g e => .next ((s.setReg8 g (s.readE8 e)).advance f.len)
  | .gvEv g e => .next ((s.setReg16 g (s.readE16 e)).advance f.len)

/-- MOV immediate to r/m; `reg` is ignored (R251). -/
def execMovImm (f : MovImmForm) (s : State) : Outcome State :=
  match f with
  | .ebIb _ e i => .next ((s.writeE8 e i).advance f.len)
  | .evIv _ e i => .next ((s.writeE16 e i).advance f.len)

/-- MOV immediate to register (R252). -/
def execMovRegImm (f : MovRegImmForm) (s : State) : Outcome State :=
  match f with
  | .r8 r i => .next ((s.setReg8 r i).advance 2)
  | .r16 r i => .next ((s.setReg16 r i).advance 3)

/-- MOV segment register to r/m (R253). -/
def execMovFromSeg (e : RM16) (sw : BitVec 3) (s : State) : Outcome State :=
  match SReg.ofSw sw with
  | none => .fault .addressingNotImplemented
  | some r => .next ((s.writeE16 e (s.sreg r)).advance (2 + e.dispLen))

/-- MOV r/m to segment register, CS included (R254, D26). -/
def execMovToSeg (sw : BitVec 3) (e : RM16) (s : State) : Outcome State :=
  match SReg.ofSw sw with
  | none => .fault .addressingNotImplemented
  | some r => .next ((s.setSReg r (s.readE16 e)).advance (2 + e.dispLen))

/-- MOV between accumulator and direct offset (R255). -/
def execMovMoffs (f : MoffsForm) (s : State) : Outcome State :=
  match f with
  | .alOb off => .next ((s.setReg8 .al (s.read8 .ds off)).advance 3)
  | .axOv off => .next ((s.setReg16 .ax (s.read16 .ds off)).advance 3)
  | .obAl off => .next ((s.write8 .ds off (s.reg8 .al)).advance 3)
  | .ovAx off => .next ((s.write16 .ds off (s.reg16 .ax)).advance 3)

/-- XCHG with r/m: both values, and the address, are taken before either write (R256, 30_encoding.md R102). -/
def execXchg (f : XchgForm) (s : State) : Outcome State :=
  match f with
  | .gbEb g e => .next (((s.setReg8 g (s.readE8 e)).putPlace8 (s.place e) (s.reg8 g)).advance f.len)
  | .gvEv g e => .next (((s.setReg16 g (s.readE16 e)).putPlace16 (s.place e) (s.reg16 g)).advance f.len)

/-- XCHG with AX (R256). -/
def execXchgAx (r : Reg16) (s : State) : Outcome State :=
  .next (((s.setReg16 .ax (s.reg16 r)).setReg16 r (s.reg16 .ax)).advance 1)

/-- LEA (R257). -/
def execLea (g : Reg16) (e : RM16) (s : State) : Outcome State :=
  match e with
  | .reg _ => .fault .addressingNotImplemented
  | .mem m => .next ((s.setReg16 g (s.eaOff m)).advance (2 + e.dispLen))

/-- LDS (R258). -/
def execLds (g : Reg16) (e : RM16) (s : State) : Outcome State :=
  match e with
  | .reg _ => .fault .addressingNotImplemented
  | .mem m => .next (((s.setReg16 g (s.readFar m).1).setSReg .ds (s.readFar m).2).advance (2 + e.dispLen))

/-- LES (R259). -/
def execLes (g : Reg16) (e : RM16) (s : State) : Outcome State :=
  match e with
  | .reg _ => .fault .addressingNotImplemented
  | .mem m => .next (((s.setReg16 g (s.readFar m).1).setSReg .es (s.readFar m).2).advance (2 + e.dispLen))

/-- XLAT (R260). -/
def execXlat (s : State) : Outcome State :=
  .next ((s.setReg8 .al (s.read8 .ds (s.reg16 .bx + (s.reg8 .al).setWidth 16))).advance 1)

/-! ### Stack -/

/-- PUSH register; PUSH SP stores the value already decremented (R261, D21). -/
def execPushReg (r : Reg16) (s : State) : Outcome State :=
  .next ((s.push16 (if r = .sp then s.reg16 .sp - 2 else s.reg16 r)).advance 1)

/-- PUSH segment register (R262). -/
def execPushSeg (r : SReg) (s : State) : Outcome State := .next ((s.push16 (s.sreg r)).advance 1)

/-- PUSH r/m: the operand is read before SP changes (R263). -/
def execPushRm (e : RM16) (s : State) : Outcome State := .next ((s.push16 (s.readE16 e)).advance (2 + e.dispLen))

/-- POP register; POP SP ends as the popped value (R264). -/
def execPopReg (r : Reg16) (s : State) : Outcome State :=
  let (v, s1) := s.pop16
  .next ((s1.setReg16 r v).advance 1)

/-- POP segment register (R266). -/
def execPopSeg (r : SReg) (s : State) : Outcome State :=
  let (v, s1) := s.pop16
  .next ((s1.setSReg r v).advance 1)

/-- POP r/m: the address is that of before the pop (R265); `reg` is ignored. -/
def execPopRm (_ign : BitVec 3) (e : RM16) (s : State) : Outcome State :=
  let (v, s1) := s.pop16
  .next ((s1.putPlace16 (s.place e) v).advance (2 + e.dispLen))

/-- PUSHF (R267). -/
def execPushf (s : State) : Outcome State :=
  let (img, s1) := s.flagsImage
  .next ((s1.push16 img).advance 1)

/-- POPF (R268). -/
def execPopf (s : State) : Outcome State :=
  let (v, s1) := s.pop16
  .next ((s1.setFlags (Flags.ofWord v)).advance 1)

/-- LAHF: bits 1, 3, 5 are unspecified (R269). -/
def execLahf (s : State) : Outcome State :=
  let (img, s1) := s.flagsImage
  .next ((s1.setReg8 .ah (loByte img)).advance 1)

/-- SAHF (R270). -/
def execSahf (s : State) : Outcome State := .next ((s.setFlags (s.flags.ofLowByte (s.reg8 .ah))).advance 1)

end Sys2Proof.Machine
end

