-- ==== Sys2Proof/Machine/Step.lean ====
section
/-! DEFINITION. One `cycle()` call (60_exceptions.md R370), and how a word is put where the next step fetches. -/

namespace Sys2Proof.Machine

/-- The record of the decode that precedes an instruction (10_state.md R36, log 10). -/
def State.recordDecode (s : State) : State :=
  s.setLastDecode (some (decodeRecord (s.fetch8 0) (s.fetch8 1)))

/-- The end of a step whose instruction gave state `t`: the latches are cleared unless it was one of the seven prefix
bytes (45_prefix_flag_io_misc.md R313), then the clock ticks and the devices are served (R370). -/
def finishStep (i : Instr) (t : State) : State :=
  (if i.isPrefix then t else t.clearLatches).endCycle

/-- One step. A halted core executes nothing; the clock and the devices go on (R370). -/
def step (s : State) : Host.Outcome State Fault Refusal :=
  if s.halted then .next s.endCycle
  else
    match decode s.fetchWindow with
    | .error _ => .refused .truncatedFetch
    | .ok (i, _) =>
      match exec i s.recordDecode with
      | .next t => .next (finishStep i t)
      | .fault f => .fault f
      | .refused r => .refused r

/-- Storing bytes where the instruction stream is read, from byte `k` of the next instruction on. -/
def State.storeCode (s : State) : Nat → List Byte → State
  | _, [] => s
  | k, b :: bs => (s.memWrite8 (phys (s.sreg .cs) (s.nextIp k)) b).storeCode (k + 1) bs

/-- `s` with the instruction of a table word stored at CS:IP and the core not halted, so that the next step fetches and
runs it (log 25). -/
def State.withFetchWord (s : State) (nbits w : Nat) : State :=
  (s.setHalted false).storeCode 0 (tableBytes nbits w)

end Sys2Proof.Machine
end

