-- ==== Sys2Proof/Machine/HostOps.lean ====
section
/-! DEFINITION. What the outside world can do besides calling `cycle()`: start-up and inspection (00_scope.md R9). The
renderer's side is Video.lean, the gate's Pit.lean. -/

namespace Sys2Proof.Machine

/-- `new CPU(config)`: a missing or invalid configuration is a ConfigError and no block exists (60_exceptions.md R352,
70_reset_and_hazards.md R420). -/
def construct (config : Option Config) : Outcome State :=
  match config with
  | none => .fault .configError
  | some cfg => if cfg.valid then .next (State.resetWith cfg) else .fault .configError

/-- Start-up up to the first `cycle()`: construction, then `boot()` of the devices (70_reset_and_hazards.md R423 (1) to
(3)). Memory and registers, which the host loads before or after boot (R423 (4), R424), are `State.storeCode` and the
setters. -/
def powerOn (config : Option Config) : Outcome State :=
  match construct config with
  | .next s => .next s.boot
  | .fault f => .fault f
  | .refused r => .refused r

/-- What the read-only inspection interface shows (10_state.md R39). -/
structure Snapshot where
  regs       : Regs
  sregs      : SRegs
  ip         : Word
  flagsWord  : Word
  lastDecode : Option DecodeRecord
  ovr        : Option SReg
  rep        : Option RepKind
  halted     : Bool
  bytes      : List Byte
  deriving DecidableEq, Repr

/-- The snapshot with a byte range of memory. It changes nothing of the block; its reserved FLAGS bits are a draw of
their own (10_state.md R28, R39; log 7). -/
def State.inspect (s : State) (base size : Nat) : Snapshot × State :=
  let (image, s1) := s.flagsImage
  ({ regs := s.regs
     sregs := s.sregs
     ip := s.ip
     flagsWord := image
     lastDecode := s.lastDecode
     ovr := s.ovr
     rep := s.rep
     halted := s.halted
     bytes := s.window base size }, s1)

end Sys2Proof.Machine
end

