-- ==== Sys2Proof/Safety.lean ====
section
/-! DEFINITION. What a good state is and what a safe run is, in the terms the statements use. -/

namespace Sys2Proof.Machine

/-- The memory is a canonical list whose addresses are array indices (10_state.md R43, 20_memory.md R60). -/
def State.memOk (s : State) : Prop := s.mem.wf = true ∧ Memory.below s.cfg.memSize s.mem = true

/-- The clock's invariants (60_exceptions.md R389, R384, R388): the synchronisation record is not in the future, the
period estimate is not negative, the registry is keyed by trigger time. -/
def State.clockOk (s : State) : Prop :=
  s.clock.lastSyncCycles ≤ s.clock.cycles ∧ s.clock.lastSyncTimeNS ≤ s.wallNS ∧ 0 ≤ s.clock.cyclePeriodNS ∧
    timersRising s.clock.timers = true

/-- A state of a constructed block: a legal configuration (60_exceptions.md R352), a good memory, a good clock. -/
structure State.Inv (s : State) : Prop where
  config : s.cfg.valid = true
  memory : s.memOk
  clock  : s.clockOk

/-- A run of `k` steps that neither faults nor is refused (60_exceptions.md R351, R355: only such a run has a state to
speak of). -/
def Runs (k : Nat) (s t : State) : Prop := Sys2Proof.core.run k s = .next t

end Sys2Proof.Machine
end

