-- ==== Sys2Proof/Certificates/Slice0/Obligations.lean ====
section
/-! DEFINITION. The statements for the provers, and the vocabulary they are written in: numbers, destinations and frames
stated in the spec's own terms and not in those of the meanings. -/

namespace Sys2Proof.Machine

/-! ### Numbers and flags -/

/-- `signed_w` of a number below `2^w` (00_scope.md R15). -/
def signedOf (w a : Nat) : Int := if 2 * a < 2 ^ w then (a : Int) else (a : Int) - 2 ^ w

/-- Whether an integer is in the signed `w`-bit range. -/
def fitsSigned (w : Nat) (x : Int) : Bool := decide (-(2 : Int) ^ (w - 1) ≤ x) && decide (x < (2 : Int) ^ (w - 1))

/-- The number of 1 bits among the low eight is even (10_state.md R31). -/
def evenOnes (r : Nat) : Bool := ((List.range 8).filter fun i => r.testBit i).length % 2 == 0

/-- SF, ZF and PF are those of the `w`-bit result `r`. -/
structure SzpOf (w r : Nat) (f : Flags) : Prop where
  sf : f.sf = decide (2 ^ (w - 1) ≤ r)
  zf : f.zf = decide (r = 0)
  pf : f.pf = evenOnes r

/-- The six status flags are those of the `w`-bit addition `a + b + c` (40_arithmetic.md R140). -/
structure AddFlagsOf (w a b c : Nat) (f : Flags) : Prop where
  cf  : f.cf = decide (2 ^ w ≤ a + b + c)
  ofl : f.ofl = !fitsSigned w (signedOf w a + signedOf w b + c)
  af  : f.af = decide (16 ≤ a % 16 + b % 16 + c)
  szp : SzpOf w ((a + b + c) % 2 ^ w) f

/-- The `w`-bit difference `a - b - c` modulo `2^w`. -/
def subMod (w a b c : Nat) : Nat := (((a : Int) - b - c) % (2 : Int) ^ w).toNat

/-- The six status flags are those of the `w`-bit subtraction `a - b - c` (40_arithmetic.md R141). -/
structure SubFlagsOf (w a b c : Nat) (f : Flags) : Prop where
  cf  : f.cf = decide (a < b + c)
  ofl : f.ofl = !fitsSigned w (signedOf w a - signedOf w b - c)
  af  : f.af = decide (a % 16 < b % 16 + c)
  szp : SzpOf w (subMod w a b c) f

/-- All six status flags. -/
def allStatus : List StatusFlag := [.cf, .pf, .af, .zf, .sf, .ofl]

/-! ### Frames -/

/-- What no instruction but HLT, the prefix instructions, IN and OUT touches: configuration, latches, halted bit, clock,
interval timer, the video device's output, the record of the decode, the host's clock. -/
structure SameSystem (s t : State) : Prop where
  cfg        : t.cfg = s.cfg
  ovr        : t.ovr = s.ovr
  rep        : t.rep = s.rep
  halted     : t.halted = s.halted
  clock      : t.clock = s.clock
  pit        : t.pit = s.pit
  video      : t.video = s.video
  lastDecode : t.lastDecode = s.lastDecode
  wallNS     : t.wallNS = s.wallNS

/-- The frame: `t` differs from `s` at most in IP, in the word registers `regs`, the segment registers `segs`, the status
flags `flags`, and the bytes at the linear addresses `stored`. TF, IF and DF are unchanged. -/
structure Only (s t : State) (regs : List Reg16) (segs : List SReg) (flags : List StatusFlag) (stored : List Nat) :
    Prop where
  regs    : ∀ r, r ∉ regs → t.reg16 r = s.reg16 r
  segs    : ∀ r, r ∉ segs → t.sreg r = s.sreg r
  status  : ∀ x, x ∉ flags → t.flags.get x = s.flags.get x
  control : t.flags.tf = s.flags.tf ∧ t.flags.ifl = s.flags.ifl ∧ t.flags.df = s.flags.df
  bytes   : ∀ a, (∀ b ∈ stored, s.index a ≠ s.index b) → t.memRead8 a = s.memRead8 a
  system  : SameSystem s t

/-- The linear address of a memory r/m operand (20_memory.md R63, 30_encoding.md R104 to R106). -/
def State.operandAddress (s : State) (m : MemOp) : Nat := s.seg2abs m.seg (s.eaOff m)

/-- Where an instruction writes its result. -/
inductive Dest
  | reg8   (r : Reg8)
  | reg16  (r : Reg16)
  | byteAt (a : Nat)
  | wordAt (a : Nat)
  deriving DecidableEq, Repr

def Dest.width : Dest → Nat
  | .reg8 _ => 8
  | .reg16 _ => 16
  | .byteAt _ => 8
  | .wordAt _ => 16

/-- The word register a destination is in, if it is one. -/
def Dest.regs : Dest → List Reg16
  | .reg8 r => [r.word]
  | .reg16 r => [r]
  | .byteAt _ => []
  | .wordAt _ => []

/-- The linear addresses of the bytes stored. -/
def Dest.stored : Dest → List Nat
  | .reg8 _ => []
  | .reg16 _ => []
  | .byteAt a => [a]
  | .wordAt a => [a, a + 1]

/-- The value a destination holds in a state. -/
def Dest.read (d : Dest) (s : State) : Nat :=
  match d with
  | .reg8 r => (s.reg8 r).toNat
  | .reg16 r => (s.reg16 r).toNat
  | .byteAt a => (s.memRead8 a).toNat
  | .wordAt a => (s.memRead16 a).toNat

/-- In `t` the destination holds `v`, and a byte register's write left every other byte register as in `s`. -/
def Dest.holds (d : Dest) (s t : State) (v : Nat) : Prop :=
  d.read t = v ∧
    match d with
    | .reg8 r => ∀ q, q ≠ r → t.reg8 q = s.reg8 q
    | .reg16 _ => True
    | .byteAt _ => True
    | .wordAt _ => True

/-- The destination of an `Eb` operand. -/
def State.dest8 (s : State) : RM8 → Dest
  | .reg r => .reg8 r
  | .mem m => .byteAt (s.operandAddress m)

/-- The destination of an `Ev` operand. -/
def State.dest16 (s : State) : RM16 → Dest
  | .reg r => .reg16 r
  | .mem m => .wordAt (s.operandAddress m)

/-- An instruction of `len` bytes wrote `v` to `d` and the status flags `flags`, and nothing else. -/
structure Wrote (s t : State) (d : Dest) (v : Nat) (flags : List StatusFlag) (len : Nat) : Prop where
  value : d.holds s t v
  frame : Only s t d.regs [] flags d.stored
  ip    : t.ip = s.ip + BitVec.ofNat 16 len

end Sys2Proof.Machine

namespace Sys2Proof

open Sys2Proof.Machine

/-! ### Operands of the forms (40_arithmetic.md R143) -/

/-- Operand `a` and destination. -/
def AluForm.dest (s : State) : AluForm → Dest
  | .ebGb e _ => s.dest8 e
  | .evGv e _ => s.dest16 e
  | .gbEb g _ => .reg8 g
  | .gvEv g _ => .reg16 g
  | .alIb _ => .reg8 .al
  | .axIv _ => .reg16 .ax
  | .ebIb e _ => s.dest8 e
  | .evIv e _ => s.dest16 e
  | .ebIbAlt e _ => s.dest8 e
  | .evIbSx e _ => s.dest16 e

/-- Operand `b`. -/
def AluForm.src (s : State) : AluForm → Nat
  | .ebGb _ g => (s.reg8 g).toNat
  | .evGv _ g => (s.reg16 g).toNat
  | .gbEb _ e => (s.dest8 e).read s
  | .gvEv _ e => (s.dest16 e).read s
  | .alIb i => i.toNat
  | .axIv i => i.toNat
  | .ebIb _ i => i.toNat
  | .evIv _ i => i.toNat
  | .ebIbAlt _ i => i.toNat
  | .evIbSx _ i => (i.signExtend 16).toNat

def IncForm.dest (s : State) : IncForm → Dest
  | .r16 r => .reg16 r
  | .eb e => s.dest8 e
  | .ev e => s.dest16 e

def UnForm.dest (s : State) : UnForm → Dest
  | .eb e => s.dest8 e
  | .ev e => s.dest16 e

/-- The first operand of TEST. -/
def TestForm.left (s : State) : TestForm → Dest
  | .gbEb g _ => .reg8 g
  | .gvEv g _ => .reg16 g
  | .alIb _ => .reg8 .al
  | .axIv _ => .reg16 .ax
  | .ebIb e _ => s.dest8 e
  | .evIv e _ => s.dest16 e

/-- The second operand of TEST. -/
def TestForm.right (s : State) : TestForm → Nat
  | .gbEb _ e => (s.dest8 e).read s
  | .gvEv _ e => (s.dest16 e).read s
  | .alIb i => i.toNat
  | .axIv i => i.toNat
  | .ebIb _ i => i.toNat
  | .evIv _ i => i.toNat

def ShiftForm.dest (s : State) : ShiftForm → Dest
  | .eb1 e => s.dest8 e
  | .ev1 e => s.dest16 e
  | .ebCl e => s.dest8 e
  | .evCl e => s.dest16 e

/-- `cnt` (41_logic_shift.md R186). -/
def ShiftForm.count (s : State) : ShiftForm → Nat
  | .eb1 _ => 1
  | .ev1 _ => 1
  | .ebCl _ => (s.reg8 .cl).toNat
  | .evCl _ => (s.reg8 .cl).toNat

/-- IN and OUT. -/
def Instr.usesPorts : Instr → Bool
  | .inImm _ _ | .inDx _ | .outImm _ _ | .outDx _ => true
  | _ => false

/-- The encodings of 30_encoding.md R123. -/
def Instr.noAddressing : Instr → Bool
  | .lea _ (.reg _) | .lds _ (.reg _) | .les _ (.reg _) | .jmpFarMem (.reg _) | .callFarMem (.reg _) => true
  | .movFromSeg _ sw | .movToSeg sw _ => decide (4 ≤ sw.toNat)
  | _ => false

/-- The port an IN reads. -/
def Instr.inPort (s : State) : Instr → Option Word
  | .inImm _ p => some (p.setWidth 16)
  | .inDx _ => some (s.reg16 .dx)
  | _ => none

end Sys2Proof

namespace Sys2Proof.Machine

/-! ### The stack, traps and strings -/

/-- The linear address of the stack word at offset `off`. -/
def State.stackAddress (s : State) (off : Word) : Nat := s.seg2abs .ss off

/-- The word on top of the stack. -/
def State.stackTop (s : State) : Word := s.memRead16 (s.stackAddress (s.reg16 .sp))

/-- An instruction of `len` bytes pushed a word `v` with `good v`, and did nothing else (20_memory.md R82). -/
structure Pushed (s t : State) (good : Word → Prop) (len : Nat) : Prop where
  sp    : t.reg16 .sp = s.reg16 .sp - 2
  value : good (t.memRead16 (s.stackAddress (s.reg16 .sp - 2)))
  frame : Only s t [.sp] [] [] [s.stackAddress (s.reg16 .sp - 2), s.stackAddress (s.reg16 .sp - 2) + 1]
  ip    : t.ip = s.ip + BitVec.ofNat 16 len

/-- The FLAGS word `w` carries the nine named flags in their places; its reserved bits may be anything (10_state.md R27,
R28). -/
def carriesFlags (w : Word) (f : Flags) : Prop :=
  w.getLsbD 0 = f.cf ∧ w.getLsbD 2 = f.pf ∧ w.getLsbD 4 = f.af ∧ w.getLsbD 6 = f.zf ∧ w.getLsbD 7 = f.sf ∧
    w.getLsbD 8 = f.tf ∧ w.getLsbD 9 = f.ifl ∧ w.getLsbD 10 = f.df ∧ w.getLsbD 11 = f.ofl

/-- The entry of trap `n` with return offset `ret` took `s` to `t` (60_exceptions.md R360). `image` is the FLAGS word pushed. The status flags
are left to each user of this. -/
structure TrapEntered (s t : State) (n : Byte) (ret : Word) (image : Word) : Prop where
  sp     : t.reg16 .sp = s.reg16 .sp - 6
  regs   : ∀ r, r ≠ .sp → t.reg16 r = s.reg16 r
  segs   : ∀ r, r ≠ .cs → t.sreg r = s.sreg r
  ip     : t.ip = t.memRead16 (4 * n.toNat)
  cs     : t.sreg .cs = t.memRead16 (4 * n.toNat + 2)
  masked : t.flags.ifl = false ∧ t.flags.tf = false ∧ t.flags.df = s.flags.df
  carried : carriesFlags image { t.flags with tf := s.flags.tf, ifl := s.flags.ifl }
  pushes : ∀ a, t.memRead8 a =
    (((s.memWrite16 (s.stackAddress (s.reg16 .sp - 2)) image).memWrite16 (s.stackAddress (s.reg16 .sp - 4))
      (s.sreg .cs)).memWrite16 (s.stackAddress (s.reg16 .sp - 6)) ret).memRead8 a
  bytes  : ∀ a, (∀ d ∈ [(2 : Word), 4, 6], s.index a ≠ s.index (s.stackAddress (s.reg16 .sp - d)) ∧
    s.index a ≠ s.index (s.stackAddress (s.reg16 .sp - d) + 1)) → t.memRead8 a = s.memRead8 a
  system : SameSystem s t

/-- `delta` (44_string.md R290). -/
def State.indexStep (s : State) (size : Word) : Word := if s.flags.df then 0 - size else size

/-- One turn of a repetition: the element, with the repeat latch set aside, then `CX <- CX - 1` (44_string.md R291). -/
def repeatTurn (i : Instr) (u : State) : State :=
  match exec i (u.setRep none) with
  | .next v => ((v.setRep u.rep).setIp u.ip).setReg16 .cx (v.reg16 .cx - 1)
  | .fault _ => u
  | .refused _ => u

/-- A port of the configured interval timer: its number among the four (60_exceptions.md R401). That the four wrap modulo
2^16 when the base is above 0xFFFC is the model's choice (log 31), in every statement about the timer's ports. -/
def State.timerPort (s : State) (port : Word) (k : Nat) : Prop :=
  ∃ base, s.cfg.pitBase = some base ∧ (port - base).toNat = k

/-- A port no device claims: none of the timer's four (log 24, log 31: the model's choice). -/
def State.unclaimed (s : State) (port : Word) : Prop :=
  ∀ base, s.cfg.pitBase = some base → 4 ≤ (port - base).toNat

/-- An IN that received `v` at width `w`, and nothing else; `len` bytes. -/
def Received (s t : State) (w : Width) (v : Nat) (len : Nat) : Prop :=
  match w with
  | .byte => Wrote s t (.reg8 .al) (v % 256) [] len
  | .word => Wrote s t (.reg16 .ax) v [] len

/-- What a step leaves of the program's view: registers, flags, memory, halted bit and configuration. -/
structure SameProgramState (s t : State) : Prop where
  cfg    : t.cfg = s.cfg
  regs   : ∀ r, t.reg16 r = s.reg16 r
  segs   : ∀ r, t.sreg r = s.sreg r
  ip     : t.ip = s.ip
  flags  : t.flags = s.flags
  ovr    : t.ovr = s.ovr
  rep    : t.rep = s.rep
  halted : t.halted = s.halted
  bytes  : ∀ a, t.memRead8 a = s.memRead8 a

end Sys2Proof.Machine

open Sys2Proof Sys2Proof.Machine

/-! ### Encoding -/

/-- Decoding the bytes of a well-formed instruction gives it back, with every operand, whatever bytes follow
(30_encoding.md R90, R104, R105, R114 to R116). -/
def Obligations.DecodeInvertsEncode : Prop :=
  ∀ (i : Instr) (rest : List Byte), i.wf = true → decode (encode i ++ rest) = .ok (i, rest)

/-- Whatever the decoder reads is a well-formed instruction whose bytes are those it consumed. -/
def Obligations.EncodeInvertsDecode : Prop :=
  ∀ (bs rest : List Byte) (i : Instr), decode bs = .ok (i, rest) → i.wf = true ∧ encode i ++ rest = bs

/-- Six bytes always hold an instruction, every opcode byte having an entry, and the bytes consumed are as many as the
instruction's length says, at most six (30_encoding.md R90, R113, R115, R118, R124). -/
def Obligations.DecodeIsTotalWithLength : Prop :=
  ∀ bs : List Byte,
    (6 ≤ bs.length → ∃ i rest, decode bs = .ok (i, rest)) ∧
    (∀ i rest, decode bs = .ok (i, rest) → bs.length = i.len + rest.length ∧ i.len ≤ 6)

/-- The unimplemented encodings are exactly those of 30_encoding.md R118: 23 opcode bytes (R118's list; its count in
words says 24) and the group slots GRP2 /6, GRP3 /1, GRP4 /2 to /7, GRP5 /7. -/
def Obligations.UnimplementedEncodingsAreThoseListed : Prop :=
  ∀ (op m : Byte) (rest : List Byte), 4 ≤ rest.length →
    ((∃ i r, decode (op :: m :: rest) = .ok (i, r) ∧
        ((∃ o, i = .unimplOp o) ∨ ∃ o n, i = .unimplGroup o n)) ↔
      (op = 0x0F ∨ (0x60 ≤ op.toNat ∧ op.toNat ≤ 0x6F) ∨ op = 0xC0 ∨ op = 0xC1 ∨ op = 0xC8 ∨ op = 0xC9 ∨ op = 0xD6 ∨
        op = 0xF1 ∨
        (0xD0 ≤ op.toNat ∧ op.toNat ≤ 0xD3 ∧ m.toNat / 8 % 8 = 6) ∨
        ((op = 0xF6 ∨ op = 0xF7) ∧ m.toNat / 8 % 8 = 1) ∨
        (op = 0xFE ∧ 2 ≤ m.toNat / 8 % 8) ∨ (op = 0xFF ∧ m.toNat / 8 % 8 = 7)))

/-- A few words written out from the encodings (30_encoding.md R115, R116; the examples of the instruction rules). -/
def Obligations.SampleWordsDecode : Prop :=
  decode [0x3D, 0x34, 0x12] = .ok (.cmp (.axIv 0x1234), []) ∧
  decode [0x8B, 0x47, 0x02] = .ok (.mov (.gvEv .ax (.mem (.disp8 .bx 0x02))), []) ∧
  decode [0xD3, 0xE8] = .ok (.shr (.evCl (.reg .ax)), []) ∧
  decode [0xFF, 0x36, 0x00, 0x02] = .ok (.pushRm (.mem (.direct 0x0200)), []) ∧
  decode [0xEA, 0x00, 0x01, 0x00, 0x20] = .ok (.jmpFar 0x0100 0x2000, []) ∧
  decode [0x83, 0xE3, 0xF0] = .ok (.and (.evIbSx (.reg .bx) 0xF0), [])

/-! ### Steps -/

/-- When the bytes at CS:IP are those of a well-formed instruction and the core is not halted, the step is that
instruction's meaning, after the decode is recorded, followed by the end of the cycle: the latches are cleared unless it
is a prefix instruction, the clock ticks, the devices are served (60_exceptions.md R370). -/
def Obligations.StepRunsDecodedInstruction : Prop :=
  ∀ (s : State) (i : Instr), s.halted = false → i.wf = true →
    (∀ k b, (encode i)[k]? = some b → s.memRead8 ((s.sreg .cs).toNat * 16 + (s.ip + BitVec.ofNat 16 k).toNat) = b) →
    step s =
      match exec i (s.setLastDecode (some (decodeRecord (s.fetch8 0) (s.fetch8 1)))) with
      | .next t => .next ((if i.isPrefix then t else (t.setOvr none).setRep none).tick.serviceDevices)
      | .fault f => .fault f
      | .refused r => .refused r

/-- A halted core executes nothing: the step answers a next state in which the program's view is the same; the clock
goes on (10_state.md R35, 60_exceptions.md R370). -/
def Obligations.HaltedStepExecutesNothing : Prop :=
  ∀ s : State, s.halted = true → ∃ t, step s = .next t ∧ SameProgramState s t ∧ t.lastDecode = s.lastDecode ∧
    t.clock.cycles = s.clock.cycles + 1

/-- After a step of a prefix instruction the latches are as it set them; after any other they are clear
(45_prefix_flag_io_misc.md R313). -/
def Obligations.LatchesAfterStep : Prop :=
  ∀ (s t : State) (i : Instr) (rest : List Byte), s.halted = false → decode s.fetchWindow = .ok (i, rest) →
    step s = .next t →
    (i ∉ [Instr.segEs, .segCs, .segSs, .segDs, .repz, .repnz, .lock] → t.ovr = none ∧ t.rep = none) ∧
    (i = .segEs → t.ovr = some .es ∧ t.rep = s.rep) ∧ (i = .segCs → t.ovr = some .cs ∧ t.rep = s.rep) ∧
    (i = .segSs → t.ovr = some .ss ∧ t.rep = s.rep) ∧ (i = .segDs → t.ovr = some .ds ∧ t.rep = s.rep) ∧
    (i = .repz → t.rep = some .repz ∧ t.ovr = s.ovr) ∧ (i = .repnz → t.rep = some .repnz ∧ t.ovr = s.ovr) ∧
    (i = .lock → t.ovr = s.ovr ∧ t.rep = s.rep)

/-- Every step keeps the invariant of a constructed block (Safety.lean): the configuration is legal, memory is canonical
and inside MEM_SIZE, the clock's record is not in the future, the timer registry is keyed by trigger time. -/
def Obligations.StepKeepsInvariant : Prop :=
  ∀ s t : State, s.Inv → step s = .next t → t.Inv

/-- The state after construction with any legal configuration meets that invariant, and so does the state after
`boot()` of its devices, the one the first `cycle()` starts from; boot leaves the program's view, the interval timer and
the cycle counter as they were, and a video device has told the renderer its size (70_reset_and_hazards.md R423,
60_exceptions.md R396). Two parts are the model's choice: that boot of the interval timer and of the interrupt controller
changes nothing, although R396 lets boot register timers (log 24), and what the video device does at boot (log 29). -/
def Obligations.ConstructedStateMeetsInvariant : Prop :=
  State.reset.Inv ∧ ∀ cfg : Config, cfg.valid = true → (State.resetWith cfg).Inv ∧
    ∃ s, powerOn (some cfg) = .next s ∧ s.Inv ∧ SameProgramState (State.resetWith cfg) s ∧
      s.pit = (State.resetWith cfg).pit ∧ s.clock.cycles = 0 ∧
      (.videoAdapter ∈ cfg.devices → s.video.size = some (cfg.screenWidth, cfg.screenHeight))

/-- Construction with a legal configuration leaves the values the spec gives (70_reset_and_hazards.md R421, 10_state.md
R46); the general registers and memory, which the spec leaves unspecified, are not in it. It fails on a missing
configuration and on a memory size out of range (60_exceptions.md R352). -/
def Obligations.ConstructionLeavesSpecifiedValues : Prop :=
  (∀ cfg : Config, cfg.valid = true → ∃ s, construct (some cfg) = .next s ∧ s.cfg = cfg ∧
    s.sreg .cs = 0xFFFF ∧ s.ip = 0 ∧ s.sreg .ds = 0 ∧ s.sreg .es = 0 ∧ s.sreg .ss = 0 ∧
    (∀ x, s.flags.get x = false) ∧ s.flags.tf = false ∧ s.flags.ifl = false ∧ s.flags.df = false ∧
    s.ovr = none ∧ s.rep = none ∧ s.halted = false ∧ s.clock.cycles = 0 ∧ s.clock.timers = [] ∧
    s.clock.lastSyncCycles = 0 ∧ ∀ c, (s.pit.channel c).running = false) ∧
  construct none = .fault .configError ∧
  ∀ cfg : Config, (cfg.memSize < 1024 ∨ 1048576 < cfg.memSize) → construct (some cfg) = .fault .configError

/-- Every step that answers a state counts one cycle, keeps the configuration, and does not turn the host's clock back
(60_exceptions.md R389, R388; 10_state.md R42). -/
def Obligations.EveryStepTicksOnce : Prop :=
  ∀ s t : State, step s = .next t →
    t.clock.cycles = s.clock.cycles + 1 ∧ t.cfg = s.cfg ∧ s.wallNS ≤ t.wallNS

/-- Every step ends in a next state, in one of the two reachable faults, or in NotImplemented (60_exceptions.md R350,
R353, R354). -/
def Obligations.StepOutcomes : Prop :=
  ∀ s : State, (∃ t, step s = .next t) ∨ step s = .fault .addressingNotImplemented ∨
    step s = .fault .devicePortError ∨ ∃ op, step s = .refused (.notImplemented op)

/-- The addressing fault is raised by exactly the encodings of 30_encoding.md R123, and by them in every state (also
60_exceptions.md R353); the device fault by an IN from the interval timer's control port, at either width (R354, R402).
That nothing else raises the device fault is the model's choice: a word IN from a count port does not (log 19), and no
other device refuses a port (log 24); so is where the control port of a base above 0xFFFC is (log 31). -/
def Obligations.FaultsAreExactlyThese : Prop :=
  ∀ (i : Instr) (s : State),
    (exec i s = .fault .addressingNotImplemented ↔ i.noAddressing = true) ∧
    (exec i s = .fault .devicePortError ↔ ∃ port, i.inPort s = some port ∧ s.timerPort port 3)

/-- The meaning of an unimplemented encoding is the refusal the spec prescribes (60_exceptions.md R355,
45_prefix_flag_io_misc.md R340). -/
def Obligations.UnimplementedIsRefused : Prop :=
  ∀ (op m : Byte) (s : State), exec (.unimplOp op) s = .refused (.notImplemented op) ∧
    exec (.unimplGroup op m) s = .refused (.notImplemented op)

/-- Only IN and OUT reach a device, the clock or the host's time, and no instruction reaches the video device; no
instruction changes the configuration; only HLT sets the halted bit and none clears it (20_memory.md R72,
60_exceptions.md R380, 10_state.md R35, R42; that no port reaches the video device is the model's choice, log 24). -/
def Obligations.OnlyPortsReachDevices : Prop :=
  ∀ (i : Instr) (s t : State), exec i s = .next t →
    t.cfg = s.cfg ∧ t.lastDecode = s.lastDecode ∧ (t.halted = (s.halted || i == .hlt)) ∧
    t.clock.cycles = s.clock.cycles ∧ t.video = s.video ∧
    (i.usesPorts = false → t.pit = s.pit ∧ t.clock = s.clock ∧ t.wallNS = s.wallNS)

/-! ### Memory and registers -/

/-- A byte register is a half of its word register: a byte write is seen in the right half of the word, and leaves the
other half and every other register (10_state.md R22, R23). -/
def Obligations.ByteRegistersAliasWords : Prop :=
  ∀ (s : State) (v : Byte),
    (∀ r ∈ [(Reg8.al, Reg16.ax), (.cl, .cx), (.dl, .dx), (.bl, .bx)],
      ((s.setReg8 r.1 v).reg16 r.2).toNat = (s.reg16 r.2).toNat / 256 * 256 + v.toNat ∧
      (s.reg8 r.1).toNat = (s.reg16 r.2).toNat % 256 ∧ ∀ q, q ≠ r.2 → (s.setReg8 r.1 v).reg16 q = s.reg16 q) ∧
    (∀ r ∈ [(Reg8.ah, Reg16.ax), (.ch, .cx), (.dh, .dx), (.bh, .bx)],
      ((s.setReg8 r.1 v).reg16 r.2).toNat = v.toNat * 256 + (s.reg16 r.2).toNat % 256 ∧
      (s.reg8 r.1).toNat = (s.reg16 r.2).toNat / 256 ∧ ∀ q, q ≠ r.2 → (s.setReg8 r.1 v).reg16 q = s.reg16 q)

/-- A word stored reads back, its low byte at the linear address and its high byte at the next one, both reduced modulo
MEM_SIZE; every other byte is as before (20_memory.md R62, R65, R66). -/
def Obligations.StoredWordReadsBack : Prop :=
  ∀ (s : State) (a : Nat) (v : Word), s.Inv →
    (s.memWrite16 a v).memRead16 a = v ∧
    ((s.memWrite16 a v).memRead8 a).toNat = v.toNat % 256 ∧
    ((s.memWrite16 a v).memRead8 (a + 1)).toNat = v.toNat / 256 ∧
    (∀ b, b % s.cfg.memSize ≠ a % s.cfg.memSize → b % s.cfg.memSize ≠ (a + 1) % s.cfg.memSize →
      (s.memWrite16 a v).memRead8 b = s.memRead8 b) ∧
    (s.memWrite16 a v).Inv

/-! ### Arithmetic (40_arithmetic.md) -/

/-- ADD and ADC, in every form: sum, flags, frame (R144, R145 with R140, R143). -/
def Obligations.AddAndAdcResult : Prop :=
  ∀ (f : AluForm) (s : State), s.Inv →
    let d := f.dest s
    (∃ t, exec (.add f) s = .next t ∧
      Wrote s t d ((d.read s + f.src s) % 2 ^ d.width) allStatus f.len ∧
      AddFlagsOf d.width (d.read s) (f.src s) 0 t.flags) ∧
    (∃ t, exec (.adc f) s = .next t ∧
      Wrote s t d ((d.read s + f.src s + s.flags.cf.toNat) % 2 ^ d.width) allStatus f.len ∧
      AddFlagsOf d.width (d.read s) (f.src s) s.flags.cf.toNat t.flags)

/-- SUB and SBB, in every form: difference, flags, frame (R146, R147 with R141, R143). CMP, in every form, writes the flags
of the difference and nothing else (R148). -/
def Obligations.SubSbbCmpResult : Prop :=
  ∀ (f : AluForm) (s : State), s.Inv →
    let d := f.dest s
    (∃ t, exec (.sub f) s = .next t ∧
      Wrote s t d (subMod d.width (d.read s) (f.src s) 0) allStatus f.len ∧
      SubFlagsOf d.width (d.read s) (f.src s) 0 t.flags) ∧
    (∃ t, exec (.sbb f) s = .next t ∧
      Wrote s t d (subMod d.width (d.read s) (f.src s) s.flags.cf.toNat) allStatus f.len ∧
      SubFlagsOf d.width (d.read s) (f.src s) s.flags.cf.toNat t.flags) ∧
    (∃ t, exec (.cmp f) s = .next t ∧ SubFlagsOf d.width (d.read s) (f.src s) 0 t.flags ∧
      Only s t [] [] allStatus [] ∧ t.ip = s.ip + BitVec.ofNat 16 f.len)

/-- INC and DEC, in every form, with all six flags, CF included (R149, R150). NEG and NOT: the negated and the complemented
operand; NEG writes the flags of `0 - b`, NOT none (R151, 41_logic_shift.md R184). -/
def Obligations.OneOperandResult : Prop :=
  ∀ (f : IncForm) (g : UnForm) (s : State), s.Inv →
    let d := f.dest s
    let o := g.dest s
    (∃ t, exec (.inc f) s = .next t ∧
      Wrote s t d ((d.read s + 1) % 2 ^ d.width) allStatus f.len ∧ AddFlagsOf d.width (d.read s) 1 0 t.flags) ∧
    (∃ t, exec (.dec f) s = .next t ∧
      Wrote s t d (subMod d.width (d.read s) 1 0) allStatus f.len ∧ SubFlagsOf d.width (d.read s) 1 0 t.flags) ∧
    (∃ t, exec (.neg g) s = .next t ∧
      Wrote s t o (subMod o.width 0 (o.read s) 0) allStatus g.len ∧ SubFlagsOf o.width 0 (o.read s) 0 t.flags) ∧
    (∃ t, exec (.not g) s = .next t ∧ Wrote s t o (2 ^ o.width - 1 - o.read s) [] g.len)

/-- MUL: the full product in AX or DX:AX; CF = OF = the upper half is not zero. IMUL: the full signed product; CF = OF = it
does not fit the lower half. The other four status flags are unspecified (R152, R153). -/
def Obligations.ProductResult : Prop :=
  ∀ (e8 : RM8) (e16 : RM16) (s : State),
    (∃ t, exec (.mul (.eb e8)) s = .next t ∧
      (t.reg16 .ax).toNat = (s.reg8 .al).toNat * (s.dest8 e8).read s ∧
      t.flags.cf = decide (256 ≤ (t.reg16 .ax).toNat) ∧ t.flags.ofl = t.flags.cf ∧
      Only s t [.ax] [] allStatus [] ∧ t.ip = s.ip + BitVec.ofNat 16 (UnForm.eb e8).len) ∧
    (∃ t, exec (.mul (.ev e16)) s = .next t ∧
      (t.reg16 .dx).toNat * 65536 + (t.reg16 .ax).toNat = (s.reg16 .ax).toNat * (s.dest16 e16).read s ∧
      t.flags.cf = decide (t.reg16 .dx ≠ 0) ∧ t.flags.ofl = t.flags.cf ∧
      Only s t [.ax, .dx] [] allStatus [] ∧ t.ip = s.ip + BitVec.ofNat 16 (UnForm.ev e16).len) ∧
    (∃ t, exec (.imul (.eb e8)) s = .next t ∧
      signedOf 16 (t.reg16 .ax).toNat = signedOf 8 (s.reg8 .al).toNat * signedOf 8 ((s.dest8 e8).read s) ∧
      t.flags.cf = !fitsSigned 8 (signedOf 16 (t.reg16 .ax).toNat) ∧ t.flags.ofl = t.flags.cf ∧
      Only s t [.ax] [] allStatus [] ∧ t.ip = s.ip + BitVec.ofNat 16 (UnForm.eb e8).len) ∧
    (∃ t, exec (.imul (.ev e16)) s = .next t ∧
      signedOf 32 ((t.reg16 .dx).toNat * 65536 + (t.reg16 .ax).toNat) =
        signedOf 16 (s.reg16 .ax).toNat * signedOf 16 ((s.dest16 e16).read s) ∧
      t.flags.cf = !fitsSigned 16 (signedOf 32 ((t.reg16 .dx).toNat * 65536 + (t.reg16 .ax).toNat)) ∧
      t.flags.ofl = t.flags.cf ∧
      Only s t [.ax, .dx] [] allStatus [] ∧ t.ip = s.ip + BitVec.ofNat 16 (UnForm.ev e16).len)

/-- DIV and IDIV with a divisor other than 0 and a quotient that fits: quotient and remainder, truncated toward zero for
IDIV, whose quotient range is symmetric; the six status flags are unspecified (R154, R155). -/
def Obligations.QuotientResult : Prop :=
  ∀ (e8 : RM8) (e16 : RM16) (s : State),
    ((s.dest8 e8).read s ≠ 0 → (s.reg16 .ax).toNat / (s.dest8 e8).read s < 256 →
      ∃ t, exec (.div (.eb e8)) s = .next t ∧
        (t.reg8 .al).toNat = (s.reg16 .ax).toNat / (s.dest8 e8).read s ∧
        (t.reg8 .ah).toNat = (s.reg16 .ax).toNat % (s.dest8 e8).read s ∧
        Only s t [.ax] [] allStatus [] ∧ t.ip = s.ip + BitVec.ofNat 16 (UnForm.eb e8).len) ∧
    ((s.dest16 e16).read s ≠ 0 →
      ((s.reg16 .dx).toNat * 65536 + (s.reg16 .ax).toNat) / (s.dest16 e16).read s < 65536 →
      ∃ t, exec (.div (.ev e16)) s = .next t ∧
        (t.reg16 .ax).toNat = ((s.reg16 .dx).toNat * 65536 + (s.reg16 .ax).toNat) / (s.dest16 e16).read s ∧
        (t.reg16 .dx).toNat = ((s.reg16 .dx).toNat * 65536 + (s.reg16 .ax).toNat) % (s.dest16 e16).read s ∧
        Only s t [.ax, .dx] [] allStatus [] ∧ t.ip = s.ip + BitVec.ofNat 16 (UnForm.ev e16).len) ∧
    (let n := signedOf 16 (s.reg16 .ax).toNat
     let d := signedOf 8 ((s.dest8 e8).read s)
     d ≠ 0 → -127 ≤ n.tdiv d → n.tdiv d ≤ 127 →
      ∃ t, exec (.idiv (.eb e8)) s = .next t ∧
        signedOf 8 (t.reg8 .al).toNat = n.tdiv d ∧ signedOf 8 (t.reg8 .ah).toNat = n - n.tdiv d * d ∧
        Only s t [.ax] [] allStatus [] ∧ t.ip = s.ip + BitVec.ofNat 16 (UnForm.eb e8).len) ∧
    (let n := signedOf 32 ((s.reg16 .dx).toNat * 65536 + (s.reg16 .ax).toNat)
     let d := signedOf 16 ((s.dest16 e16).read s)
     d ≠ 0 → -32767 ≤ n.tdiv d → n.tdiv d ≤ 32767 →
      ∃ t, exec (.idiv (.ev e16)) s = .next t ∧
        signedOf 16 (t.reg16 .ax).toNat = n.tdiv d ∧ signedOf 16 (t.reg16 .dx).toNat = n - n.tdiv d * d ∧
        Only s t [.ax, .dx] [] allStatus [] ∧ t.ip = s.ip + BitVec.ofNat 16 (UnForm.ev e16).len)

/-- The divide error: DIV and IDIV with a divisor of 0 or a quotient that does not fit, and AAM with base 0, enter trap 0
with the offset of the next instruction, AX and DX unchanged (R154, R155, R160; 60_exceptions.md R361, R360). -/
def Obligations.DivideErrorTraps : Prop :=
  ∀ (e8 : RM8) (e16 : RM16) (s : State), s.Inv →
    let n8 := (s.reg16 .ax).toNat
    let n16 := (s.reg16 .dx).toNat * 65536 + (s.reg16 .ax).toNat
    let d8 := (s.dest8 e8).read s
    let d16 := (s.dest16 e16).read s
    ((d8 = 0 ∨ 256 ≤ n8 / d8) → ∃ t w, exec (.div (.eb e8)) s = .next t ∧
      TrapEntered s t 0 (s.ip + BitVec.ofNat 16 (UnForm.eb e8).len) w) ∧
    ((d16 = 0 ∨ 65536 ≤ n16 / d16) → ∃ t w, exec (.div (.ev e16)) s = .next t ∧
      TrapEntered s t 0 (s.ip + BitVec.ofNat 16 (UnForm.ev e16).len) w) ∧
    ((d8 = 0 ∨ 127 < (signedOf 16 n8).tdiv (signedOf 8 d8) ∨ (signedOf 16 n8).tdiv (signedOf 8 d8) < -127) →
      ∃ t w, exec (.idiv (.eb e8)) s = .next t ∧
        TrapEntered s t 0 (s.ip + BitVec.ofNat 16 (UnForm.eb e8).len) w) ∧
    ((d16 = 0 ∨ 32767 < (signedOf 32 n16).tdiv (signedOf 16 d16) ∨
      (signedOf 32 n16).tdiv (signedOf 16 d16) < -32767) →
      ∃ t w, exec (.idiv (.ev e16)) s = .next t ∧
        TrapEntered s t 0 (s.ip + BitVec.ofNat 16 (UnForm.ev e16).len) w) ∧
    (∃ t w, exec (.aam 0) s = .next t ∧ TrapEntered s t 0 (s.ip + 2) w)

/-- DAA and DAS: the two corrections, their carries, SF, ZF and PF of the result; OF is unspecified. AAA and AAS: AL and AH
are adjusted as separate bytes, AF and CF say whether; the other four are unspecified (R156 to R159). -/
def Obligations.DecimalAndAsciiAdjust : Prop :=
  ∀ s : State,
    let al := (s.reg8 .al).toNat
    let ah := (s.reg8 .ah).toNat
    let lo := decide (9 < al % 16) || s.flags.af
    let hi := decide (0x99 < al) || s.flags.cf
    (∃ t, exec .daa s = .next t ∧
      Wrote s t (.reg8 .al) ((al + lo.toNat * 6 + hi.toNat * 0x60) % 256) allStatus 1 ∧
      t.flags.af = lo ∧ t.flags.cf = hi ∧ SzpOf 8 (t.reg8 .al).toNat t.flags) ∧
    (∃ t, exec .das s = .next t ∧
      Wrote s t (.reg8 .al) (subMod 8 al (lo.toNat * 6) (hi.toNat * 0x60)) allStatus 1 ∧
      t.flags.af = lo ∧ t.flags.cf = hi ∧ SzpOf 8 (t.reg8 .al).toNat t.flags) ∧
    (∃ t, exec .aaa s = .next t ∧
      (t.reg8 .al).toNat = (al + lo.toNat * 6) % 16 ∧ (t.reg8 .ah).toNat = (ah + lo.toNat) % 256 ∧
      t.flags.af = lo ∧ t.flags.cf = lo ∧ Only s t [.ax] [] allStatus [] ∧ t.ip = s.ip + 1) ∧
    (∃ t, exec .aas s = .next t ∧
      (t.reg8 .al).toNat = subMod 4 al (lo.toNat * 6) 0 ∧ (t.reg8 .ah).toNat = subMod 8 ah lo.toNat 0 ∧
      t.flags.af = lo ∧ t.flags.cf = lo ∧ Only s t [.ax] [] allStatus [] ∧ t.ip = s.ip + 1)

/-- AAM with a base other than 0, and AAD: the digits, SF, ZF and PF of AL; OF, AF, CF are unspecified. CBW and CWD extend
the sign of AL into AX and of AX into DX; no flag changes (R160 to R163). -/
def Obligations.DigitAndSignConversion : Prop :=
  ∀ (base : Byte) (s : State),
    let al := (s.reg8 .al).toNat
    let ah := (s.reg8 .ah).toNat
    (base ≠ 0 → ∃ t, exec (.aam base) s = .next t ∧
      (t.reg8 .ah).toNat = al / base.toNat ∧ (t.reg8 .al).toNat = al % base.toNat ∧
      SzpOf 8 (t.reg8 .al).toNat t.flags ∧ Only s t [.ax] [] allStatus [] ∧ t.ip = s.ip + 2) ∧
    (∃ t, exec (.aad base) s = .next t ∧
      (t.reg8 .al).toNat = (al + ah * base.toNat) % 256 ∧ (t.reg8 .ah).toNat = 0 ∧
      SzpOf 8 (t.reg8 .al).toNat t.flags ∧ Only s t [.ax] [] allStatus [] ∧ t.ip = s.ip + 2) ∧
    (∃ t, exec .cbw s = .next t ∧ signedOf 16 (t.reg16 .ax).toNat = signedOf 8 (s.reg8 .al).toNat ∧
      Only s t [.ax] [] [] [] ∧ t.ip = s.ip + 1) ∧
    (∃ t, exec .cwd s = .next t ∧
      signedOf 32 ((t.reg16 .dx).toNat * 65536 + (t.reg16 .ax).toNat) = signedOf 16 (s.reg16 .ax).toNat ∧
      Only s t [.dx] [] [] [] ∧ t.ip = s.ip + 1)

/-! ### Logic and shifts (41_logic_shift.md) -/

/-- AND, OR and XOR in every form: the result, CF = OF = 0, SF, ZF and PF of it; AF is unspecified (R181 to R183 with
R180). TEST writes the flags of AND and nothing else (R185). -/
def Obligations.LogicResult : Prop :=
  ∀ (f : AluForm) (g : TestForm) (s : State), s.Inv →
    let d := f.dest s
    let a := d.read s
    let b := f.src s
    (∃ t, exec (.and f) s = .next t ∧ Wrote s t d (a &&& b) allStatus f.len ∧
      t.flags.cf = false ∧ t.flags.ofl = false ∧ SzpOf d.width (a &&& b) t.flags) ∧
    (∃ t, exec (.or f) s = .next t ∧ Wrote s t d (a ||| b) allStatus f.len ∧
      t.flags.cf = false ∧ t.flags.ofl = false ∧ SzpOf d.width (a ||| b) t.flags) ∧
    (∃ t, exec (.xor f) s = .next t ∧ Wrote s t d (a ^^^ b) allStatus f.len ∧
      t.flags.cf = false ∧ t.flags.ofl = false ∧ SzpOf d.width (a ^^^ b) t.flags) ∧
    (∃ t, exec (.test g) s = .next t ∧ t.flags.cf = false ∧ t.flags.ofl = false ∧
      SzpOf (g.left s).width ((g.left s).read s &&& g.right s) t.flags ∧
      Only s t [] [] allStatus [] ∧ t.ip = s.ip + BitVec.ofNat 16 g.len)

/-- SHL, SHR and SAR by a count of 1 or more: the closed forms of the result and of CF, OF for a count of 1, SF, ZF and
PF of the result; AF, and OF for a greater count, are unspecified (R191 to R193 with R186). -/
def Obligations.ShiftResult : Prop :=
  ∀ (f : ShiftForm) (s : State), s.Inv → 1 ≤ f.count s →
    let d := f.dest s
    let n := d.width
    let v := d.read s
    let c := f.count s
    (∃ t, exec (.shl f) s = .next t ∧ Wrote s t d (v * 2 ^ c % 2 ^ n) allStatus f.len ∧
      t.flags.cf = (decide (c ≤ n) && v.testBit (n - c)) ∧
      (c = 1 → t.flags.ofl = (v.testBit (n - 2) ^^ v.testBit (n - 1))) ∧ SzpOf n (v * 2 ^ c % 2 ^ n) t.flags) ∧
    (∃ t, exec (.shr f) s = .next t ∧ Wrote s t d (v / 2 ^ c) allStatus f.len ∧
      t.flags.cf = v.testBit (c - 1) ∧ (c = 1 → t.flags.ofl = v.testBit (n - 1)) ∧ SzpOf n (v / 2 ^ c) t.flags) ∧
    (∃ t, exec (.sar f) s = .next t ∧
      Wrote s t d ((signedOf n v / (2 : Int) ^ c) % (2 : Int) ^ n).toNat allStatus f.len ∧
      t.flags.cf = (if c ≤ n then v.testBit (c - 1) else v.testBit (n - 1)) ∧ (c = 1 → t.flags.ofl = false) ∧
      SzpOf n ((signedOf n v / (2 : Int) ^ c) % (2 : Int) ^ n).toNat t.flags)

/-- ROL and ROR by a count of 1 or more rotate by the count modulo the width; CF is the bit that wrapped last; OF is
given for a count of 1 and unspecified beyond; the other flags are unchanged (R187, R188 with R186). -/
def Obligations.RotateResult : Prop :=
  ∀ (f : ShiftForm) (s : State), s.Inv → 1 ≤ f.count s →
    let d := f.dest s
    let n := d.width
    let v := d.read s
    let c := f.count s % n
    (∃ t, exec (.rol f) s = .next t ∧ Wrote s t d (v * 2 ^ c % 2 ^ n + v / 2 ^ (n - c)) [.cf, .ofl] f.len ∧
      t.flags.cf = (d.read t).testBit 0 ∧
      (f.count s = 1 → t.flags.ofl = ((d.read t).testBit (n - 1) ^^ t.flags.cf))) ∧
    (∃ t, exec (.ror f) s = .next t ∧ Wrote s t d (v / 2 ^ c + v * 2 ^ (n - c) % 2 ^ n) [.cf, .ofl] f.len ∧
      t.flags.cf = (d.read t).testBit (n - 1) ∧
      (f.count s = 1 → t.flags.ofl = ((d.read t).testBit (n - 1) ^^ (d.read t).testBit (n - 2))))

/-- RCL and RCR by a count of 1 or more rotate the `N + 1`-bit quantity `CF ++ v` (R189, R190 with R186). -/
def Obligations.RotateThroughCarryResult : Prop :=
  ∀ (f : ShiftForm) (s : State), s.Inv → 1 ≤ f.count s →
    let d := f.dest s
    let n := d.width
    let x := s.flags.cf.toNat * 2 ^ n + d.read s
    let c := f.count s % (n + 1)
    (∃ t, exec (.rcl f) s = .next t ∧
      Wrote s t d ((x * 2 ^ c % 2 ^ (n + 1) + x / 2 ^ (n + 1 - c)) % 2 ^ n) [.cf, .ofl] f.len ∧
      t.flags.cf = (x * 2 ^ c % 2 ^ (n + 1) + x / 2 ^ (n + 1 - c)).testBit n ∧
      (f.count s = 1 → t.flags.ofl = ((d.read t).testBit (n - 1) ^^ t.flags.cf))) ∧
    (∃ t, exec (.rcr f) s = .next t ∧
      Wrote s t d ((x / 2 ^ c + x * 2 ^ (n + 1 - c) % 2 ^ (n + 1)) % 2 ^ n) [.cf, .ofl] f.len ∧
      t.flags.cf = (x / 2 ^ c + x * 2 ^ (n + 1 - c) % 2 ^ (n + 1)).testBit n ∧
      (f.count s = 1 → t.flags.ofl = ((d.read t).testBit (n - 1) ^^ (d.read t).testBit (n - 2))))

/-- A shift or rotate by CL = 0 changes no flag and writes nothing (R186). -/
def Obligations.ZeroCountChangesNothing : Prop :=
  ∀ (f : ShiftForm) (s : State), f.count s = 0 →
    ∀ i ∈ [Instr.rol f, .ror f, .rcl f, .rcr f, .shl f, .shr f, .sar f],
      ∃ t, exec i s = .next t ∧ Only s t [] [] [] [] ∧ t.ip = s.ip + BitVec.ofNat 16 f.len

/-! ### Data transfer (43_data_transfer.md) -/

/-- MOV between r/m and register, immediate to r/m, immediate to register, and between the accumulator and a direct
offset; XLAT, which loads AL from DS:(BX + AL) (R250 to R252, R255, R260). -/
def Obligations.MovAndXlatResult : Prop :=
  ∀ (e8 : RM8) (e16 : RM16) (g8 : Reg8) (g16 : Reg16) (ign : BitVec 3) (i : Byte) (j : Word) (s : State), s.Inv →
    (∃ t, exec (.mov (.ebGb e8 g8)) s = .next t ∧ Wrote s t (s.dest8 e8) (s.reg8 g8).toNat [] (2 + e8.dispLen)) ∧
    (∃ t, exec (.mov (.evGv e16 g16)) s = .next t ∧
      Wrote s t (s.dest16 e16) (s.reg16 g16).toNat [] (2 + e16.dispLen)) ∧
    (∃ t, exec (.mov (.gbEb g8 e8)) s = .next t ∧ Wrote s t (.reg8 g8) ((s.dest8 e8).read s) [] (2 + e8.dispLen)) ∧
    (∃ t, exec (.mov (.gvEv g16 e16)) s = .next t ∧
      Wrote s t (.reg16 g16) ((s.dest16 e16).read s) [] (2 + e16.dispLen)) ∧
    (∃ t, exec (.movImm (.ebIb ign e8 i)) s = .next t ∧ Wrote s t (s.dest8 e8) i.toNat [] (3 + e8.dispLen)) ∧
    (∃ t, exec (.movImm (.evIv ign e16 j)) s = .next t ∧ Wrote s t (s.dest16 e16) j.toNat [] (4 + e16.dispLen)) ∧
    (∃ t, exec (.movRegImm (.r8 g8 i)) s = .next t ∧ Wrote s t (.reg8 g8) i.toNat [] 2) ∧
    (∃ t, exec (.movRegImm (.r16 g16 j)) s = .next t ∧ Wrote s t (.reg16 g16) j.toNat [] 3) ∧
    (∃ t, exec (.movMoffs (.alOb j)) s = .next t ∧
      Wrote s t (.reg8 .al) (s.memRead8 (s.seg2abs .ds j)).toNat [] 3) ∧
    (∃ t, exec (.movMoffs (.axOv j)) s = .next t ∧
      Wrote s t (.reg16 .ax) (s.memRead16 (s.seg2abs .ds j)).toNat [] 3) ∧
    (∃ t, exec (.movMoffs (.obAl j)) s = .next t ∧
      Wrote s t (.byteAt (s.seg2abs .ds j)) (s.reg8 .al).toNat [] 3) ∧
    (∃ t, exec (.movMoffs (.ovAx j)) s = .next t ∧
      Wrote s t (.wordAt (s.seg2abs .ds j)) (s.reg16 .ax).toNat [] 3) ∧
    (∃ t, exec .xlat s = .next t ∧
      Wrote s t (.reg8 .al)
        (s.memRead8 (s.seg2abs .ds (s.reg16 .bx + BitVec.ofNat 16 (s.reg8 .al).toNat))).toNat [] 1)

/-- MOV to and from a segment register, CS included; a selector of 4 or more is the addressing fault (R253, R254). -/
def Obligations.SegmentMoveResult : Prop :=
  ∀ (e : RM16) (sw : BitVec 3) (s : State), s.Inv →
    (∀ r ∈ [((0 : BitVec 3), SReg.es), (1, .cs), (2, .ss), (3, .ds)], sw = r.1 →
      (∃ t, exec (.movFromSeg e sw) s = .next t ∧
        Wrote s t (s.dest16 e) (s.sreg r.2).toNat [] (2 + e.dispLen)) ∧
      (∃ t, exec (.movToSeg sw e) s = .next t ∧ (t.sreg r.2).toNat = (s.dest16 e).read s ∧
        Only s t [] [r.2] [] [] ∧ t.ip = s.ip + BitVec.ofNat 16 (2 + e.dispLen))) ∧
    (4 ≤ sw.toNat → exec (.movFromSeg e sw) s = .fault .addressingNotImplemented ∧
      exec (.movToSeg sw e) s = .fault .addressingNotImplemented)

/-- XCHG exchanges: register and r/m, register and AX; both values, and the address, are those of before (R256). -/
def Obligations.ExchangeResult : Prop :=
  ∀ (e8 : RM8) (e16 : RM16) (g8 : Reg8) (g16 : Reg16) (s : State), s.Inv →
    (∃ t, exec (.xchg (.gbEb g8 e8)) s = .next t ∧
      (t.reg8 g8).toNat = (s.dest8 e8).read s ∧ (s.dest8 e8).read t = (s.reg8 g8).toNat ∧
      (∀ q, q ≠ g8 → .reg8 q ≠ s.dest8 e8 → t.reg8 q = s.reg8 q) ∧
      Only s t (g8.word :: (s.dest8 e8).regs) [] [] (s.dest8 e8).stored ∧
      t.ip = s.ip + BitVec.ofNat 16 (2 + e8.dispLen)) ∧
    (∃ t, exec (.xchg (.gvEv g16 e16)) s = .next t ∧
      (t.reg16 g16).toNat = (s.dest16 e16).read s ∧ (s.dest16 e16).read t = (s.reg16 g16).toNat ∧
      Only s t (g16 :: (s.dest16 e16).regs) [] [] (s.dest16 e16).stored ∧
      t.ip = s.ip + BitVec.ofNat 16 (2 + e16.dispLen)) ∧
    (∃ t, exec (.xchgAx g16) s = .next t ∧ t.reg16 .ax = s.reg16 g16 ∧ t.reg16 g16 = s.reg16 .ax ∧
      Only s t [.ax, g16] [] [] [] ∧ t.ip = s.ip + 1)

/-- LEA loads the offset; LDS and LES load a far pointer, offset word first, from the memory of before; a register
operand is the addressing fault (R257 to R259). -/
def Obligations.AddressLoadResult : Prop :=
  ∀ (g : Reg16) (m : MemOp) (r : Reg16) (s : State),
    let off := s.memRead16 (s.seg2abs m.seg (s.eaOff m))
    let seg := s.memRead16 (s.seg2abs m.seg (s.eaOff m + 2))
    let len := BitVec.ofNat 16 (2 + (RM.mem m : RM16).dispLen)
    (∃ t, exec (.lea g (.mem m)) s = .next t ∧ t.reg16 g = s.eaOff m ∧ Only s t [g] [] [] [] ∧ t.ip = s.ip + len) ∧
    (∃ t, exec (.lds g (.mem m)) s = .next t ∧ t.reg16 g = off ∧ t.sreg .ds = seg ∧ Only s t [g] [.ds] [] [] ∧
      t.ip = s.ip + len) ∧
    (∃ t, exec (.les g (.mem m)) s = .next t ∧ t.reg16 g = off ∧ t.sreg .es = seg ∧ Only s t [g] [.es] [] [] ∧
      t.ip = s.ip + len) ∧
    exec (.lea g (.reg r)) s = .fault .addressingNotImplemented ∧
    exec (.lds g (.reg r)) s = .fault .addressingNotImplemented ∧
    exec (.les g (.reg r)) s = .fault .addressingNotImplemented

/-- The effective address: base plus displacement modulo 2^16, an 8-bit displacement sign-extended; SS is the default
segment of the BP forms, DS of the others (30_encoding.md R104 to R106). A data access uses the latched segment register
when a latch is set and the passed one otherwise, at `segment * 16 + offset`, not reduced (20_memory.md R61, R63). -/
def Obligations.DataAddressComputation : Prop :=
  ∀ (s : State) (d : Byte) (w : Word) (seg : SReg),
    let base : BaseKind → Nat := fun b =>
      match b with
      | .bxSi => (s.reg16 .bx).toNat + (s.reg16 .si).toNat
      | .bxDi => (s.reg16 .bx).toNat + (s.reg16 .di).toNat
      | .bpSi => (s.reg16 .bp).toNat + (s.reg16 .si).toNat
      | .bpDi => (s.reg16 .bp).toNat + (s.reg16 .di).toNat
      | .si => (s.reg16 .si).toNat
      | .di => (s.reg16 .di).toNat
      | .bp => (s.reg16 .bp).toNat
      | .bx => (s.reg16 .bx).toNat
    (∀ b, (s.eaOff (.base b)).toNat = base b % 65536) ∧
    (∀ b, ((s.eaOff (.disp8 b d)).toNat : Int) = ((base b : Int) + signedOf 8 d.toNat) % 65536) ∧
    (∀ b, (s.eaOff (.disp16 b w)).toNat = (base b + w.toNat) % 65536) ∧
    (s.eaOff (.direct w)).toNat = w.toNat ∧ (MemOp.direct w).seg = .ds ∧
    (∀ b, b ∈ [BaseKind.bpSi, .bpDi, .bp] →
      (MemOp.base b).seg = .ss ∧ (MemOp.disp8 b d).seg = .ss ∧ (MemOp.disp16 b w).seg = .ss) ∧
    (∀ b, b ∉ [BaseKind.bpSi, .bpDi, .bp] →
      (MemOp.base b).seg = .ds ∧ (MemOp.disp8 b d).seg = .ds ∧ (MemOp.disp16 b w).seg = .ds) ∧
    (s.ovr = none → s.seg2abs seg w = (s.sreg seg).toNat * 16 + w.toNat) ∧
    (∀ r, s.ovr = some r → s.seg2abs seg w = (s.sreg r).toNat * 16 + w.toNat)

/-- PUSH of a register (SP: the decremented value), of a segment register, of an r/m operand read before the push
(R261 to R263). -/
def Obligations.PushResult : Prop :=
  ∀ (r : Reg16) (sr : SReg) (e : RM16) (s : State), s.Inv →
    (∃ t, exec (.pushReg r) s = .next t ∧
      Pushed s t (fun v => v = if r = .sp then s.reg16 .sp - 2 else s.reg16 r) 1) ∧
    (∃ t, exec (.pushSeg sr) s = .next t ∧ Pushed s t (fun v => v = s.sreg sr) 1) ∧
    (∃ t, exec (.pushRm e) s = .next t ∧ Pushed s t (fun v => v.toNat = (s.dest16 e).read s) (2 + e.dispLen))

/-- POP of a register (SP ends as the popped value), of a segment register, into an r/m operand addressed as before the
pop (R264 to R266). -/
def Obligations.PopResult : Prop :=
  ∀ (r : Reg16) (sr : SReg) (ign : BitVec 3) (e : RM16) (s : State), s.Inv →
    (∃ t, exec (.popReg r) s = .next t ∧ t.reg16 r = s.stackTop ∧ (r ≠ .sp → t.reg16 .sp = s.reg16 .sp + 2) ∧
      Only s t [r, .sp] [] [] [] ∧ t.ip = s.ip + 1) ∧
    (∃ t, exec (.popSeg sr) s = .next t ∧ t.sreg sr = s.stackTop ∧ t.reg16 .sp = s.reg16 .sp + 2 ∧
      Only s t [.sp] [sr] [] [] ∧ t.ip = s.ip + 1) ∧
    (∃ t, exec (.popRm ign e) s = .next t ∧ (s.dest16 e).read t = s.stackTop.toNat ∧
      (e ≠ .reg .sp → t.reg16 .sp = s.reg16 .sp + 2) ∧
      Only s t (.sp :: (s.dest16 e).regs) [] [] (s.dest16 e).stored ∧
      t.ip = s.ip + BitVec.ofNat 16 (2 + e.dispLen))

/-- PUSHF and LAHF read the named flags in their places, reserved bits unspecified; POPF and SAHF load them, reserved
bits discarded (R267 to R270). -/
def Obligations.FlagTransferResult : Prop :=
  ∀ s : State, s.Inv →
    (∃ t, exec .pushf s = .next t ∧ Pushed s t (fun v => carriesFlags v s.flags) 1) ∧
    (∃ t, exec .popf s = .next t ∧ carriesFlags s.stackTop t.flags ∧ t.reg16 .sp = s.reg16 .sp + 2 ∧
      (∀ r, r ≠ .sp → t.reg16 r = s.reg16 r) ∧ (∀ r, t.sreg r = s.sreg r) ∧
      (∀ a, t.memRead8 a = s.memRead8 a) ∧ SameSystem s t ∧ t.ip = s.ip + 1) ∧
    (∃ t, exec .lahf s = .next t ∧
      (t.reg8 .ah).getLsbD 0 = s.flags.cf ∧ (t.reg8 .ah).getLsbD 2 = s.flags.pf ∧
      (t.reg8 .ah).getLsbD 4 = s.flags.af ∧ (t.reg8 .ah).getLsbD 6 = s.flags.zf ∧
      (t.reg8 .ah).getLsbD 7 = s.flags.sf ∧ t.reg8 .al = s.reg8 .al ∧ Only s t [.ax] [] [] [] ∧ t.ip = s.ip + 1) ∧
    (∃ t, exec .sahf s = .next t ∧
      t.flags.cf = (s.reg8 .ah).getLsbD 0 ∧ t.flags.pf = (s.reg8 .ah).getLsbD 2 ∧
      t.flags.af = (s.reg8 .ah).getLsbD 4 ∧ t.flags.zf = (s.reg8 .ah).getLsbD 6 ∧
      t.flags.sf = (s.reg8 .ah).getLsbD 7 ∧ Only s t [] [] [.cf, .pf, .af, .zf, .sf] [] ∧ t.ip = s.ip + 1)

/-! ### Control transfer (42_control_transfer.md) -/

/-- JMP near writes IP, JMP far CS and IP; a register operand of the far indirect form is the addressing fault (R211,
R212). -/
def Obligations.JumpTargets : Prop :=
  ∀ (rb : Byte) (rw off seg : Word) (e : RM16) (m : MemOp) (r : Reg16) (s : State),
    (∃ t, exec (.jmpRel (.short rb)) s = .next t ∧
      (t.ip.toNat : Int) = ((s.ip.toNat : Int) + 2 + signedOf 8 rb.toNat) % 65536 ∧ Only s t [] [] [] []) ∧
    (∃ t, exec (.jmpRel (.near rw)) s = .next t ∧ t.ip.toNat = (s.ip.toNat + 3 + rw.toNat) % 65536 ∧
      Only s t [] [] [] []) ∧
    (∃ t, exec (.jmpRm e) s = .next t ∧ t.ip.toNat = (s.dest16 e).read s ∧ Only s t [] [] [] []) ∧
    (∃ t, exec (.jmpFar off seg) s = .next t ∧ t.ip = off ∧ t.sreg .cs = seg ∧ Only s t [] [.cs] [] []) ∧
    (∃ t, exec (.jmpFarMem (.mem m)) s = .next t ∧ t.ip = s.memRead16 (s.seg2abs m.seg (s.eaOff m)) ∧
      t.sreg .cs = s.memRead16 (s.seg2abs m.seg (s.eaOff m + 2)) ∧ Only s t [] [.cs] [] []) ∧
    exec (.jmpFarMem (.reg r)) s = .fault .addressingNotImplemented

/-- The sixteen conditional jumps: each jumps, relative to the next instruction, exactly when its condition of R213 holds,
and changes nothing but IP. -/
def Obligations.ConditionalJumps : Prop :=
  ∀ (rel : Byte) (s : State),
    ∀ c ∈ [(Instr.jo rel, s.flags.ofl), (.jno rel, !s.flags.ofl), (.jb rel, s.flags.cf), (.jnb rel, !s.flags.cf),
        (.jz rel, s.flags.zf), (.jnz rel, !s.flags.zf), (.jbe rel, s.flags.cf || s.flags.zf),
        (.ja rel, !s.flags.cf && !s.flags.zf), (.js rel, s.flags.sf), (.jns rel, !s.flags.sf),
        (.jpe rel, s.flags.pf), (.jpo rel, !s.flags.pf), (.jl rel, s.flags.sf != s.flags.ofl),
        (.jge rel, s.flags.sf == s.flags.ofl), (.jle rel, s.flags.zf || s.flags.sf != s.flags.ofl),
        (.jg rel, !s.flags.zf && s.flags.sf == s.flags.ofl)],
      ∃ t, exec c.1 s = .next t ∧ Only s t [] [] [] [] ∧
        (t.ip.toNat : Int) = ((s.ip.toNat : Int) + 2 + (if c.2 then signedOf 8 rel.toNat else 0)) % 65536

/-- After CMP, the jumps compare the operands: JB, JBE, JA, JNB as unsigned numbers, JL, JLE, JG, JGE as signed ones, JZ
and JNZ for equality (R213). -/
def Obligations.JumpsAfterCompare : Prop :=
  ∀ (f : AluForm) (s t : State), exec (.cmp f) s = .next t →
    let w := (f.dest s).width
    let a := (f.dest s).read s
    let b := f.src s
    (t.flags.cf = decide (a < b)) ∧ (t.flags.zf = decide (a = b)) ∧
    ((t.flags.cf || t.flags.zf) = decide (a ≤ b)) ∧
    ((t.flags.sf != t.flags.ofl) = decide (signedOf w a < signedOf w b)) ∧
    ((t.flags.zf || t.flags.sf != t.flags.ofl) = decide (signedOf w a ≤ signedOf w b))

/-- LOOP, LOOPZ, LOOPNZ count CX down, then jump on CX and ZF; JCXZ tests CX and leaves it (R230 to R233). -/
def Obligations.LoopInstructions : Prop :=
  ∀ (rel : Byte) (s : State),
    (∀ c ∈ [(Instr.loop rel, true), (.loopz rel, s.flags.zf), (.loopnz rel, !s.flags.zf)],
      ∃ t, exec c.1 s = .next t ∧ t.reg16 .cx = s.reg16 .cx - 1 ∧ Only s t [.cx] [] [] [] ∧
        (t.ip.toNat : Int) = ((s.ip.toNat : Int) + 2 +
          (if s.reg16 .cx ≠ 1 ∧ c.2 = true then signedOf 8 rel.toNat else 0)) % 65536) ∧
    (∃ t, exec (.jcxz rel) s = .next t ∧ Only s t [] [] [] [] ∧
      (t.ip.toNat : Int) = ((s.ip.toNat : Int) + 2 +
        (if s.reg16 .cx = 0 then signedOf 8 rel.toNat else 0)) % 65536)

/-- CALL near pushes the offset of the next instruction and jumps, to a target read before the push; CALL far pushes CS,
then that offset, and loads CS and IP; a register operand of the far indirect form is the addressing fault (R234,
R235). -/
def Obligations.CallResult : Prop :=
  ∀ (rel off seg : Word) (e : RM16) (m : MemOp) (r : Reg16) (s : State), s.Inv →
    let slot1 := s.stackAddress (s.reg16 .sp - 2)
    let slot2 := s.stackAddress (s.reg16 .sp - 4)
    let len := BitVec.ofNat 16 (2 + (RM.mem m : RM16).dispLen)
    (∃ t, exec (.callRel rel) s = .next t ∧ t.ip = s.ip + 3 + rel ∧ t.reg16 .sp = s.reg16 .sp - 2 ∧
      t.memRead16 slot1 = s.ip + 3 ∧ Only s t [.sp] [] [] [slot1, slot1 + 1]) ∧
    (∃ t, exec (.callRm e) s = .next t ∧ t.ip.toNat = (s.dest16 e).read s ∧ t.reg16 .sp = s.reg16 .sp - 2 ∧
      t.memRead16 slot1 = s.ip + BitVec.ofNat 16 (2 + e.dispLen) ∧ Only s t [.sp] [] [] [slot1, slot1 + 1]) ∧
    (∃ t, exec (.callFar off seg) s = .next t ∧ t.ip = off ∧ t.sreg .cs = seg ∧ t.reg16 .sp = s.reg16 .sp - 4 ∧
      (∀ a, t.memRead8 a = ((s.memWrite16 slot1 (s.sreg .cs)).memWrite16 slot2 (s.ip + 5)).memRead8 a) ∧
      Only s t [.sp] [.cs] [] [slot1, slot1 + 1, slot2, slot2 + 1]) ∧
    (∃ t, exec (.callFarMem (.mem m)) s = .next t ∧ t.ip = s.memRead16 (s.seg2abs m.seg (s.eaOff m)) ∧
      t.sreg .cs = s.memRead16 (s.seg2abs m.seg (s.eaOff m + 2)) ∧ t.reg16 .sp = s.reg16 .sp - 4 ∧
      (∀ a, t.memRead8 a = ((s.memWrite16 slot1 (s.sreg .cs)).memWrite16 slot2 (s.ip + len)).memRead8 a) ∧
      Only s t [.sp] [.cs] [] [slot1, slot1 + 1, slot2, slot2 + 1]) ∧
    exec (.callFarMem (.reg r)) s = .fault .addressingNotImplemented

/-- RET and RETF pop IP, or IP and CS; the immediate is added to SP after the pops (R236, R237). -/
def Obligations.ReturnResult : Prop :=
  ∀ (n : Word) (s : State),
    let second := s.memRead16 (s.stackAddress (s.reg16 .sp + 2))
    (∃ t, exec .ret s = .next t ∧ t.ip = s.stackTop ∧ t.reg16 .sp = s.reg16 .sp + 2 ∧ Only s t [.sp] [] [] []) ∧
    (∃ t, exec (.retImm n) s = .next t ∧ t.ip = s.stackTop ∧ t.reg16 .sp = s.reg16 .sp + 2 + n ∧
      Only s t [.sp] [] [] []) ∧
    (∃ t, exec .retf s = .next t ∧ t.ip = s.stackTop ∧ t.sreg .cs = second ∧ t.reg16 .sp = s.reg16 .sp + 4 ∧
      Only s t [.sp] [.cs] [] []) ∧
    (∃ t, exec (.retfImm n) s = .next t ∧ t.ip = s.stackTop ∧ t.sreg .cs = second ∧
      t.reg16 .sp = s.reg16 .sp + 4 + n ∧ Only s t [.sp] [.cs] [] [])

/-- INT n, INT3 and INTO with OF = 1 enter their trap with the offset of the next instruction; no status flag changes.
INTO with OF = 0 only advances IP (R238 to R240; 60_exceptions.md R360). -/
def Obligations.SoftwareInterruptsTrap : Prop :=
  ∀ (n : Byte) (s : State), s.Inv →
    (∃ t w, exec (.int n) s = .next t ∧ TrapEntered s t n (s.ip + 2) w ∧ ∀ x, t.flags.get x = s.flags.get x) ∧
    (∃ t w, exec .int3 s = .next t ∧ TrapEntered s t 3 (s.ip + 1) w ∧ ∀ x, t.flags.get x = s.flags.get x) ∧
    (s.flags.ofl = true → ∃ t w, exec .into s = .next t ∧ TrapEntered s t 4 (s.ip + 1) w ∧
      ∀ x, t.flags.get x = s.flags.get x) ∧
    (s.flags.ofl = false → ∃ t, exec .into s = .next t ∧ Only s t [] [] [] [] ∧ t.ip = s.ip + 1)

/-- IRET pops IP, CS and the nine named flags; the third pop is addressed with the CS just loaded (R241). -/
def Obligations.InterruptReturnResult : Prop :=
  ∀ s : State,
    let cs := s.memRead16 (s.stackAddress (s.reg16 .sp + 2))
    ∃ t, exec .iret s = .next t ∧ t.ip = s.stackTop ∧ t.sreg .cs = cs ∧ t.reg16 .sp = s.reg16 .sp + 6 ∧
      carriesFlags (s.memRead16 ((s.setSReg .cs cs).stackAddress (s.reg16 .sp + 4))) t.flags ∧
      (∀ r, r ≠ .sp → t.reg16 r = s.reg16 r) ∧ (∀ r, r ≠ .cs → t.sreg r = s.sreg r) ∧
      (∀ a, t.memRead8 a = s.memRead8 a) ∧ SameSystem s t

/-- A handler that executes IRET at once resumes after the INT with CS, SP and all nine flags as before it, when no
latch is set and the stack does not wrap (60_exceptions.md R366, R367). -/
def Obligations.InterruptReturnUndoesInterrupt : Prop :=
  ∀ (n : Byte) (s t u : State), s.Inv → s.ovr = none → 6 ≤ (s.reg16 .sp).toNat →
    exec (.int n) s = .next t → exec .iret t = .next u →
    u.ip = s.ip + 2 ∧ (∀ r, u.sreg r = s.sreg r) ∧ (∀ r, u.reg16 r = s.reg16 r) ∧ u.flags = s.flags

/-! ### Strings (44_string.md) -/

/-- A string instruction without a repeat latch: one element, the index registers moved by `delta` (R290). MOVS, LODS and
STOS move it (R292, R295, R296); CMPS and SCAS write the flags of source minus destination and of accumulator minus
element (R293, R294 with 40_arithmetic.md R141). -/
def Obligations.StringElementResult : Prop :=
  ∀ s : State, s.Inv → s.rep = none →
    let src := s.seg2abs .ds (s.reg16 .si)
    let dst := s.seg2abs .es (s.reg16 .di)
    let si := fun k => s.reg16 .si + s.indexStep k
    let di := fun k => s.reg16 .di + s.indexStep k
    (∃ t, exec .movsb s = .next t ∧ t.memRead8 dst = s.memRead8 src ∧ t.reg16 .si = si 1 ∧ t.reg16 .di = di 1 ∧
      Only s t [.si, .di] [] [] [dst] ∧ t.ip = s.ip + 1) ∧
    (∃ t, exec .movsw s = .next t ∧ t.memRead16 dst = s.memRead16 src ∧ t.reg16 .si = si 2 ∧ t.reg16 .di = di 2 ∧
      Only s t [.si, .di] [] [] [dst, dst + 1] ∧ t.ip = s.ip + 1) ∧
    (∃ t, exec .lodsb s = .next t ∧ t.reg8 .al = s.memRead8 src ∧ t.reg8 .ah = s.reg8 .ah ∧ t.reg16 .si = si 1 ∧
      Only s t [.ax, .si] [] [] [] ∧ t.ip = s.ip + 1) ∧
    (∃ t, exec .lodsw s = .next t ∧ t.reg16 .ax = s.memRead16 src ∧ t.reg16 .si = si 2 ∧
      Only s t [.ax, .si] [] [] [] ∧ t.ip = s.ip + 1) ∧
    (∃ t, exec .stosb s = .next t ∧ t.memRead8 dst = s.reg8 .al ∧ t.reg16 .di = di 1 ∧
      Only s t [.di] [] [] [dst] ∧ t.ip = s.ip + 1) ∧
    (∃ t, exec .stosw s = .next t ∧ t.memRead16 dst = s.reg16 .ax ∧ t.reg16 .di = di 2 ∧
      Only s t [.di] [] [] [dst, dst + 1] ∧ t.ip = s.ip + 1) ∧
    (∃ t, exec .cmpsb s = .next t ∧ SubFlagsOf 8 (s.memRead8 src).toNat (s.memRead8 dst).toNat 0 t.flags ∧
      t.reg16 .si = si 1 ∧ t.reg16 .di = di 1 ∧ Only s t [.si, .di] [] allStatus [] ∧ t.ip = s.ip + 1) ∧
    (∃ t, exec .cmpsw s = .next t ∧ SubFlagsOf 16 (s.memRead16 src).toNat (s.memRead16 dst).toNat 0 t.flags ∧
      t.reg16 .si = si 2 ∧ t.reg16 .di = di 2 ∧ Only s t [.si, .di] [] allStatus [] ∧ t.ip = s.ip + 1) ∧
    (∃ t, exec .scasb s = .next t ∧ SubFlagsOf 8 (s.reg8 .al).toNat (s.memRead8 dst).toNat 0 t.flags ∧
      t.reg16 .di = di 1 ∧ Only s t [.di] [] allStatus [] ∧ t.ip = s.ip + 1) ∧
    (∃ t, exec .scasw s = .next t ∧ SubFlagsOf 16 (s.reg16 .ax).toNat (s.memRead16 dst).toNat 0 t.flags ∧
      t.reg16 .di = di 2 ∧ Only s t [.di] [] allStatus [] ∧ t.ip = s.ip + 1)

/-- With a repeat latch a string instruction is one step of turns: CX turns for MOVS, LODS, STOS; for CMPS and SCAS the
turns end when CX is 0, or after the first turn that leaves ZF = 0 (REPZ) or ZF = 1 (REPNZ) (R291). -/
def Obligations.RepetitionIsIteratedElement : Prop :=
  ∀ (s : State) (k : RepKind), s.rep = some k →
    let cx := (s.reg16 .cx).toNat
    (∀ i ∈ [Instr.movsb, .movsw, .lodsb, .lodsw, .stosb, .stosw],
      exec i s = .next (((repeatTurn i)^[cx] s).setIp (s.ip + 1))) ∧
    (∀ i ∈ [Instr.cmpsb, .cmpsw, .scasb, .scasw],
      let stops := fun u : State => u.flags.zf = decide (k = .repnz)
      ∃ n, n ≤ cx ∧ exec i s = .next (((repeatTurn i)^[n] s).setIp (s.ip + 1)) ∧
        (∀ j, 0 < j → j < n → ¬ stops ((repeatTurn i)^[j] s)) ∧
        (n = cx ∨ (0 < n ∧ stops ((repeatTurn i)^[n] s))))

/-- REP STOSB fills: every byte of the CX it reaches is AL, every other byte is as before, CX ends 0 and DI past the last
(R291, R296). -/
def Obligations.RepeatedStoreFills : Prop :=
  ∀ (s : State) (k : RepKind), s.Inv → s.rep = some k →
    let cx := (s.reg16 .cx).toNat
    let at_ := fun j : Nat => s.seg2abs .es (s.reg16 .di + BitVec.ofNat 16 j * s.indexStep 1)
    ∃ t, exec .stosb s = .next t ∧ (∀ j, j < cx → t.memRead8 (at_ j) = s.reg8 .al) ∧
      (∀ a, (∀ j, j < cx → s.index a ≠ s.index (at_ j)) → t.memRead8 a = s.memRead8 a) ∧
      t.reg16 .cx = 0 ∧ t.reg16 .di = s.reg16 .di + s.reg16 .cx * s.indexStep 1 ∧
      (∀ r, r ∉ [Reg16.cx, .di] → t.reg16 r = s.reg16 r) ∧ t.flags = s.flags ∧ t.ip = s.ip + 1

/-! ### Prefix instructions, flag control, miscellaneous (45_prefix_flag_io_misc.md) -/

/-- A segment prefix sets its latch and no other, a repeat prefix the repeat latch, LOCK none; each advances IP by 1 and
changes nothing else (R310 to R312). -/
def Obligations.PrefixInstructionsSetLatches : Prop :=
  ∀ s : State,
    (∀ c ∈ [(Instr.segEs, SReg.es), (.segCs, .cs), (.segSs, .ss), (.segDs, .ds)],
      exec c.1 s = .next ((s.setOvr (some c.2)).setIp (s.ip + 1))) ∧
    (∀ c ∈ [(Instr.repz, RepKind.repz), (.repnz, .repnz)],
      exec c.1 s = .next ((s.setRep (some c.2)).setIp (s.ip + 1))) ∧
    exec .lock s = .next (s.setIp (s.ip + 1))

/-- CLC, STC, CMC, CLD, STD, CLI, STI write one flag and advance IP by 1 (R314 to R320). NOP and WAIT advance IP by 1, ESC
by its length, HLT also sets the halted bit; nothing else changes (R321 to R324). -/
def Obligations.FlagControlAndNopResult : Prop :=
  ∀ (op ign : BitVec 3) (e : RM16) (s : State),
    exec .clc s = .next ((s.setFlags { s.flags with cf := false }).setIp (s.ip + 1)) ∧
    exec .stc s = .next ((s.setFlags { s.flags with cf := true }).setIp (s.ip + 1)) ∧
    exec .cmc s = .next ((s.setFlags { s.flags with cf := !s.flags.cf }).setIp (s.ip + 1)) ∧
    exec .cld s = .next ((s.setFlags { s.flags with df := false }).setIp (s.ip + 1)) ∧
    exec .std s = .next ((s.setFlags { s.flags with df := true }).setIp (s.ip + 1)) ∧
    exec .cli s = .next ((s.setFlags { s.flags with ifl := false }).setIp (s.ip + 1)) ∧
    exec .sti s = .next ((s.setFlags { s.flags with ifl := true }).setIp (s.ip + 1)) ∧
    exec .nop s = .next (s.setIp (s.ip + 1)) ∧ exec .wait s = .next (s.setIp (s.ip + 1)) ∧
    exec (.esc op ign e) s = .next (s.setIp (s.ip + BitVec.ofNat 16 (2 + e.dispLen))) ∧
    exec .hlt s = .next ((s.setHalted true).setIp (s.ip + 1))

/-- IN from a port no device claims reads 0xFF or 0xFFFF, OUT to one is ignored (R330 to R333, 60_exceptions.md R395).
That every port outside the timer's four is claimed by no device is the model's choice (log 24), and so is which four a
base above 0xFFFC has (log 31). -/
def Obligations.UnclaimedPortsAreBenign : Prop :=
  ∀ (p : Byte) (w : Width) (s : State),
    (s.unclaimed (BitVec.ofNat 16 p.toNat) →
      (∃ t, exec (.inImm w p) s = .next t ∧ Received s t w 0xFFFF 2) ∧
      (∃ t, exec (.outImm w p) s = .next t ∧ Only s t [] [] [] [] ∧ t.ip = s.ip + 2)) ∧
    (s.unclaimed (s.reg16 .dx) →
      (∃ t, exec (.inDx w) s = .next t ∧ Received s t w 0xFFFF 1) ∧
      (∃ t, exec (.outDx w) s = .next t ∧ Only s t [] [] [] [] ∧ t.ip = s.ip + 1))

/-! ### Interval timer and clock (60_exceptions.md) -/

/-- A byte read of a count port with a valid latched count, immediate or DX. The read/load mode selects a byte of it: the
low one, the high one, or in mode "LSB then MSB" the low one first and the high one second (R402); what arrives in AL is the
free value of this read that stands for the selected byte, because "a model treats every count read from the interval timer
as an unspecified 8-bit value per byte" (R406, U12): nothing is known of it, and the statement holds for every value. Of the
channel only two fields change: the latch is released once the configured bytes are read, and in mode "LSB then MSB" the
read sequence moves on, true after the first byte and false after the second; the latched count itself is kept. Nothing
outside the channel, AL and IP changes. The ports of a base above 0xFFFC are the model's choice (log 31). -/
def Obligations.LatchedCountIsRead : Prop :=
  ∀ (s : State) (p : Byte) (k : Nat) (c : Channel), (k, c) ∈ [(0, Channel.ch0), (1, .ch1), (2, .ch2)] →
    let ch := s.pit.channel c
    ch.latchValid = true → ch.rl ≠ .latch →
    ∀ i len, (i = .inImm .byte p ∧ len = 2 ∧ s.timerPort (BitVec.ofNat 16 p.toNat) k) ∨
        (i = .inDx .byte ∧ len = 1 ∧ s.timerPort (s.reg16 .dx) k) →
      let second := ch.rl = .lsbMsb ∧ ch.readSeq = true
      let selected := if ch.rl = .msb ∨ second then ch.latched.toNat / 256 else ch.latched.toNat % 256
      ∃ t, exec i s = .next t ∧
        Wrote (s.setChannel c
            { ch with
              latchValid := decide (ch.rl = .lsbMsb ∧ ch.readSeq = false)
              readSeq := if ch.rl = .lsbMsb then !ch.readSeq else ch.readSeq })
          t (.reg8 .al) (Config.countByte s.draws (BitVec.ofNat 8 selected)).toNat [] len

/-- IN from a count port of the timer, at either width, immediate or DX, completes, whether a count is latched or not. It
writes the accumulator (AL alone at byte width), IP and its channel; every value read from a count port is unspecified
(60_exceptions.md R402, R406). Of the channel it moves the read sequence in mode "LSB then MSB" and releases a latched count
once the configured bytes are read (R402, R403); the other channels, the clock and its timers, the latches and the rest of
the machine stay, and the host's clock is read only for a live count of a channel that runs (R406). OUT to any port of the
timer completes, at either width, and changes nothing of the program's view but IP; a word write is the write of its low
byte (R401, R403). The model's choices: the word read of a count port, with the effect of one byte read (log 19), a control
word that names channel 3 (log 20), a count port in read/load mode "latch", which a read leaves as it was (log 21), the
ports of a base above 0xFFFC (log 31). -/
def Obligations.TimerPortAccessCompletes : Prop :=
  ∀ (s : State) (p : Byte) (w : Width) (k : Nat),
    (∀ c, (k, c) ∈ [(0, Channel.ch0), (1, .ch1), (2, .ch2)] →
      let ch := s.pit.channel c
      ∀ i len, (i = .inImm w p ∧ len = 2 ∧ s.timerPort (BitVec.ofNat 16 p.toNat) k) ∨
          (i = .inDx w ∧ len = 1 ∧ s.timerPort (s.reg16 .dx) k) →
        ∃ t, exec i s = .next t ∧ (w = .byte → t.reg8 .ah = s.reg8 .ah) ∧
          (∀ r, r ≠ .ax → t.reg16 r = s.reg16 r) ∧ (∀ r, t.sreg r = s.sreg r) ∧ t.flags = s.flags ∧
          (∀ a, t.memRead8 a = s.memRead8 a) ∧ t.halted = s.halted ∧ t.clock = s.clock ∧
          t.ip = s.ip + BitVec.ofNat 16 len ∧
          t.cfg = s.cfg ∧ t.ovr = s.ovr ∧ t.rep = s.rep ∧ t.lastDecode = s.lastDecode ∧ t.video = s.video ∧
          s.wallNS ≤ t.wallNS ∧ (ch.latchValid = true ∨ ch.running = false → t.wallNS = s.wallNS) ∧
          (∀ x, x ≠ c → t.pit.channel x = s.pit.channel x) ∧
          t.pit.channel c =
            { ch with
              readSeq := if ch.rl = .lsbMsb then !ch.readSeq else ch.readSeq
              latchValid := ch.latchValid && decide (ch.rl = .latch ∨ (ch.rl = .lsbMsb ∧ ch.readSeq = false)) }) ∧
    (k < 4 →
      (s.timerPort (BitVec.ofNat 16 p.toNat) k → ∃ t, exec (.outImm w p) s = .next t ∧
        SameProgramState (s.setIp (s.ip + 2)) t ∧ exec (.outImm .byte p) s = .next t) ∧
      (s.timerPort (s.reg16 .dx) k → ∃ t, exec (.outDx w) s = .next t ∧
        SameProgramState (s.setIp (s.ip + 1)) t ∧ exec (.outDx .byte) s = .next t))

/-- A control word, AX written to the control port at either width (a word write counts as its low byte), immediate or
DX. With read/load bits other than 0 it programs its channel: mode, BCD, sequences, running, and the output level that the
configured mode table gives; its pending timer is removed, other timers stay, and the host's clock is not read. With
read/load bits 0 it is the latch command: the count is latched, the stored one, with no reading of the host's clock, when the
channel does not run, else one computed from the reading that is then the host's time, as R406 says (a binary count stated);
neither the channel's other fields nor the virtual clock change (R401). Other channels, and the program's view but IP, never
change. The model's choices in it: the table is a parameter (R404; log 18 for the values of State.reset), the channel's
timer is found by its callback (log 22), programming calls no output-change callback though it may change the level, so
`outputNotices` stays (log 23), `phase` is the model's own field (log 30), the control port of a base above 0xFFFC wraps
(log 31). -/
def Obligations.ControlWordProgramsChannel : Prop :=
  ∀ (s : State) (p : Byte) (w : Width) (k : Nat) (c : Channel), (k, c) ∈ [(0, Channel.ch0), (1, .ch1), (2, .ch2)] →
    let v := (s.reg8 .al).toNat
    let ch := s.pit.channel c
    let n : Nat := if ch.reload.toNat = 0 then 65536 else ch.reload.toNat
    v / 64 = k →
    ∀ i len, (i = .outImm w p ∧ len = 2 ∧ s.timerPort (BitVec.ofNat 16 p.toNat) 3) ∨
        (i = .outDx w ∧ len = 1 ∧ s.timerPort (s.reg16 .dx) 3) →
      ∃ t, exec i s = .next t ∧ SameProgramState (s.setIp (s.ip + BitVec.ofNat 16 len)) t ∧
        (∀ x, x ≠ c → t.pit.channel x = s.pit.channel x) ∧
        (v / 16 % 4 ≠ 0 →
          t.pit.channel c =
            { ch with
              rl := if v / 16 % 4 = 1 then ReadLoad.lsb else if v / 16 % 4 = 2 then .msb else .lsbMsb
              mode := match v / 2 % 8 with
                | 0 => PitMode.terminalCount | 1 => .oneShot | 2 => .rateGenerator | 3 => .squareWave
                | 4 => .softwareStrobe | 5 => .hardwareStrobe | 6 => .rateGenerator | _ => .squareWave
              bcd := decide (v % 2 = 1)
              writeSeq := false
              readSeq := false
              running := false
              output := (match v / 2 % 8 with
                | 0 => s.cfg.pitTable.mode0 | 1 => s.cfg.pitTable.mode1 | 2 => s.cfg.pitTable.mode2
                | 3 => s.cfg.pitTable.mode3 | 4 => s.cfg.pitTable.mode4 | 5 => s.cfg.pitTable.mode5
                | 6 => s.cfg.pitTable.mode2 | _ => s.cfg.pitTable.mode3).initialOutput
              phase := .unloaded } ∧
          (∀ tm ∈ t.clock.timers, tm.callback ≠ .pit c) ∧
          (∀ tm, tm.callback ≠ .pit c → (tm ∈ t.clock.timers ↔ tm ∈ s.clock.timers)) ∧ t.wallNS = s.wallNS) ∧
        (v / 16 % 4 = 0 → t.clock = s.clock ∧
          ∃ count, t.pit.channel c = { ch with latched := count, latchValid := true } ∧
            (ch.running = false → count = ch.counter ∧ t.wallNS = s.wallNS) ∧
            (ch.running = true → s.wallNS ≤ t.wallNS ∧
              (ch.bcd = false → (count.toNat : Int) =
                ((n : Int) - ((t.wallNS - ch.lastSet) / s.cfg.pitPeriodNS).floor % n) % 65536)))

/-- A byte written to a count port, at either width of OUT (a word write counts as its low byte), immediate or DX. One that
completes a reload (LSB only, MSB only, or the second byte of LSB then MSB) is taken as reload value and count, the time is
recorded from a reading of the clock, the channel runs as its gate allows, and with the gate high exactly one timer of the
channel is pending, `PIT_PERIOD_NS * N` after a second reading, which is not before the first (R388), N being the reload
value or 65536 for 0 (a binary count stated); with the gate low none is, and the clock is read once. Every other timer
stays, but one with that very trigger time, which the new one replaces (R384). The first byte of LSB then MSB only sets the
low half of the reload value and moves the write sequence: no timer is armed or removed, and the clock is not read (R401).
The program's view but IP and the other channels never change. How the channel's timer is found is the model's inference
(log 22), `phase` is its own field (log 30), and the ports of a base above 0xFFFC are its choice (log 31). -/
def Obligations.ReloadArmsChannelTimer : Prop :=
  ∀ (s : State) (p : Byte) (w : Width) (k : Nat) (c : Channel), (k, c) ∈ [(0, Channel.ch0), (1, .ch1), (2, .ch2)] →
    let ch := s.pit.channel c
    let v := (s.reg8 .al).toNat
    let n := if ch.rl = .lsb then v else if ch.rl = .msb then v * 256 else ch.reload.toNat % 256 + v * 256
    ∀ i len, (i = .outImm w p ∧ len = 2 ∧ s.timerPort (BitVec.ofNat 16 p.toNat) k) ∨
        (i = .outDx w ∧ len = 1 ∧ s.timerPort (s.reg16 .dx) k) →
      ch.rl ≠ .latch →
      ∃ t, exec i s = .next t ∧ SameProgramState (s.setIp (s.ip + BitVec.ofNat 16 len)) t ∧
        (∀ x, x ≠ c → t.pit.channel x = s.pit.channel x) ∧
        (ch.rl = .lsbMsb ∧ ch.writeSeq = false →
          t.clock = s.clock ∧ t.wallNS = s.wallNS ∧
          t.pit.channel c =
            { ch with reload := BitVec.ofNat 16 (ch.reload.toNat / 256 * 256 + v), writeSeq := true }) ∧
        (¬ (ch.rl = .lsbMsb ∧ ch.writeSeq = false) →
          ∃ now later trigger, s.wallNS ≤ now ∧ now ≤ later ∧ t.wallNS = (if ch.gate then later else now) ∧
            t.pit.channel c =
              { ch with
                reload := BitVec.ofNat 16 n
                counter := BitVec.ofNat 16 n
                lastSet := now
                running := ch.gate
                writeSeq := if ch.rl = .lsbMsb then false else ch.writeSeq
                phase := .awaiting } ∧
            (ch.bcd = false → trigger = later + s.cfg.pitPeriodNS * ((if n = 0 then 65536 else n : Nat) : Rat)) ∧
            (t.clock.timers.filter fun tm => decide (tm.callback = .pit c)) =
              (if ch.gate then [{ trigger := trigger, callback := .pit c }] else []) ∧
            (∀ tm, tm.callback ≠ .pit c → (ch.gate = true → tm.trigger ≠ trigger) →
              (tm ∈ t.clock.timers ↔ tm ∈ s.clock.timers)))

/-- A channel fires, in each mode. In mode 3 its output toggles exactly once, with one call of the output-change callback
(R405); in the other modes the output does what the configured table says at terminal count: it goes high, goes low and high
again, or toggles, each change of level being one call. In the periodic modes 2 and 3 the fire time and the reload value are
recorded and a new timer of the channel is pending `PIT_PERIOD_NS * N` after the fire time (N as R401 for a binary count),
every timer with another trigger time staying; in the others the clock is unchanged (R405). No other field of the channel,
no other channel and nothing of the program's view changes. The model's choices in it: the table is a parameter, and "low for
one input clock" is a change down and one up at the fire time (log 18), the callback is a count of its calls (log 23),
`phase` is the model's own field (log 30). -/
def Obligations.SquareWaveFires : Prop :=
  ∀ (s : State) (c : Channel) (tf : Rat),
    let ch := s.pit.channel c
    let n : Nat := if ch.reload.toNat = 0 then 65536 else ch.reload.toNat
    let periodic := ch.mode = .rateGenerator ∨ ch.mode = .squareWave
    let effect := match ch.mode with
      | .terminalCount => s.cfg.pitTable.mode0.terminal
      | .oneShot => s.cfg.pitTable.mode1.terminal
      | .rateGenerator => s.cfg.pitTable.mode2.terminal
      | .squareWave => TerminalEffect.toggles
      | .softwareStrobe => s.cfg.pitTable.mode4.terminal
      | .hardwareStrobe => s.cfg.pitTable.mode5.terminal
    (s.fire c tf).pit.channel c =
      { ch with
        output := match effect with
          | .toggles => !ch.output
          | .goesHigh => true
          | .lowPulse => true
        outputNotices := ch.outputNotices + match effect with
          | .toggles => 1
          | .goesHigh => if ch.output then 0 else 1
          | .lowPulse => if ch.output then 2 else 1
        lastSet := if periodic then tf else ch.lastSet
        counter := if periodic then ch.reload else ch.counter
        phase := if periodic then ch.phase else .past } ∧
    (periodic → ∃ trigger, (ch.bcd = false → trigger = tf + s.cfg.pitPeriodNS * (n : Rat)) ∧
      { trigger := trigger, callback := .pit c } ∈ (s.fire c tf).clock.timers ∧
      ∀ tm, tm.trigger ≠ trigger → (tm ∈ (s.fire c tf).clock.timers ↔ tm ∈ s.clock.timers)) ∧
    (¬ periodic → (s.fire c tf).clock = s.clock) ∧
    (∀ x, x ≠ c → (s.fire c tf).pit.channel x = s.pit.channel x) ∧
    SameProgramState s (s.fire c tf)

/-- When timers fire. Only on a tick whose counter is a multiple of TIMER_CHECK_CYCLES: on any other the registry and the
interval timer are unchanged, and on those the tick ends in a scan, after the synchronisation where both fall together
(R381, R386; D30 for their order). A tick never touches the program's view (R364, R387). A timer is due at a scan at time
`now` when `now > trigger` or `trigger < now + halfInterval` (R383). A scan leaves a channel with no due timer as it was,
also when others fire; no timer that is not due leaves the registry, but one with its trigger time may replace it (R384);
and in a registry keyed by trigger time a channel with one due timer fires, at the scan's time. When one timer alone is
due, the scan is that timer removed and its callback run: `fire` of its channel, or a vertical sync, which hands the
renderer one frame made from the video window (R405, R410; when the video device scans is the model's choice, log 29, and so is that a window past MEM_SIZE wraps, log
32). -/
def Obligations.TimersFireAtScansOnly : Prop :=
  ∀ s : State,
    let counted := s.setClock { s.clock with cycles := s.clock.cycles + 1 }
    let now := s.wallNS + wallAdvance s.draws
    let due := fun tm : Timer =>
      now > tm.trigger ∨ tm.trigger < now + (s.cfg.timerCheckCycles : Rat) * s.clock.cyclePeriodNS / 2
    SameProgramState s s.tick ∧ SameProgramState s s.checkTimers ∧
    ((s.clock.cycles + 1) % s.cfg.timerCheckCycles ≠ 0 → s.tick.clock.timers = s.clock.timers ∧ s.tick.pit = s.pit) ∧
    ((s.clock.cycles + 1) % s.cfg.timerCheckCycles = 0 →
      s.tick = (if (s.clock.cycles + 1) % s.cfg.timeSyncCycles = 0 then counted.sync else counted).checkTimers) ∧
    (∀ c, (∀ tm ∈ s.clock.timers, tm.callback = .pit c → ¬ due tm) →
      s.checkTimers.pit.channel c = s.pit.channel c) ∧
    (∀ tm ∈ s.clock.timers, ¬ due tm → ∃ tm' ∈ s.checkTimers.clock.timers, tm'.trigger = tm.trigger) ∧
    (timersRising s.clock.timers = true →
      (∀ c, ∀ tm ∈ s.clock.timers, tm.callback = .pit c → due tm →
        (∀ tm' ∈ s.clock.timers, tm'.callback = .pit c → due tm' → tm' = tm) →
        s.checkTimers.pit.channel c = (s.fire c now).pit.channel c) ∧
      (∀ tm ∈ s.clock.timers, due tm → (∀ tm' ∈ s.clock.timers, due tm' → tm' = tm) →
        let removed := ((s.setWallNS now).setDraws (s.draws + 2)).setClock
          { s.clock with timers := s.clock.timers.filter fun tm' => decide (tm'.trigger ≠ tm.trigger) }
        (∀ c, tm.callback = .pit c → s.checkTimers = removed.fire c now) ∧
        (tm.callback = .verticalSync → s.checkTimers.pit = s.pit ∧ s.checkTimers.video.size = s.video.size ∧
          s.checkTimers.video.frames = s.video.frames + 1 ∧
          ∃ f, s.checkTimers.video.last = some f ∧ f.width = s.cfg.screenWidth ∧ f.height = s.cfg.screenHeight ∧
            f.window = (List.range s.cfg.videoSize).map fun j => s.memRead8 (s.cfg.videoBase + j))))
end

