-- ==== Sys2Proof/Laws/State.lean ====
section
/-! SUPPORT. What each one-field update of the state leaves in each field: one rewriting rule per field per update. -/

namespace Sys2Proof.Machine

section FieldUpdates

variable (s : State)

/-! Update of `regs`. -/
@[simp] theorem State.setRegs_cfg (v : Regs) : (s.setRegs v).cfg = s.cfg := rfl
@[simp] theorem State.setRegs_regs (v : Regs) : (s.setRegs v).regs = v := rfl
@[simp] theorem State.setRegs_sregs (v : Regs) : (s.setRegs v).sregs = s.sregs := rfl
@[simp] theorem State.setRegs_ip (v : Regs) : (s.setRegs v).ip = s.ip := rfl
@[simp] theorem State.setRegs_flags (v : Regs) : (s.setRegs v).flags = s.flags := rfl
@[simp] theorem State.setRegs_ovr (v : Regs) : (s.setRegs v).ovr = s.ovr := rfl
@[simp] theorem State.setRegs_rep (v : Regs) : (s.setRegs v).rep = s.rep := rfl
@[simp] theorem State.setRegs_halted (v : Regs) : (s.setRegs v).halted = s.halted := rfl
@[simp] theorem State.setRegs_mem (v : Regs) : (s.setRegs v).mem = s.mem := rfl
@[simp] theorem State.setRegs_clock (v : Regs) : (s.setRegs v).clock = s.clock := rfl
@[simp] theorem State.setRegs_pit (v : Regs) : (s.setRegs v).pit = s.pit := rfl
@[simp] theorem State.setRegs_video (v : Regs) : (s.setRegs v).video = s.video := rfl
@[simp] theorem State.setRegs_lastDecode (v : Regs) : (s.setRegs v).lastDecode = s.lastDecode := rfl
@[simp] theorem State.setRegs_wallNS (v : Regs) : (s.setRegs v).wallNS = s.wallNS := rfl
@[simp] theorem State.setRegs_draws (v : Regs) : (s.setRegs v).draws = s.draws := rfl

/-! Update of `sregs`. -/
@[simp] theorem State.setSRegs_cfg (v : SRegs) : (s.setSRegs v).cfg = s.cfg := rfl
@[simp] theorem State.setSRegs_regs (v : SRegs) : (s.setSRegs v).regs = s.regs := rfl
@[simp] theorem State.setSRegs_sregs (v : SRegs) : (s.setSRegs v).sregs = v := rfl
@[simp] theorem State.setSRegs_ip (v : SRegs) : (s.setSRegs v).ip = s.ip := rfl
@[simp] theorem State.setSRegs_flags (v : SRegs) : (s.setSRegs v).flags = s.flags := rfl
@[simp] theorem State.setSRegs_ovr (v : SRegs) : (s.setSRegs v).ovr = s.ovr := rfl
@[simp] theorem State.setSRegs_rep (v : SRegs) : (s.setSRegs v).rep = s.rep := rfl
@[simp] theorem State.setSRegs_halted (v : SRegs) : (s.setSRegs v).halted = s.halted := rfl
@[simp] theorem State.setSRegs_mem (v : SRegs) : (s.setSRegs v).mem = s.mem := rfl
@[simp] theorem State.setSRegs_clock (v : SRegs) : (s.setSRegs v).clock = s.clock := rfl
@[simp] theorem State.setSRegs_pit (v : SRegs) : (s.setSRegs v).pit = s.pit := rfl
@[simp] theorem State.setSRegs_video (v : SRegs) : (s.setSRegs v).video = s.video := rfl
@[simp] theorem State.setSRegs_lastDecode (v : SRegs) : (s.setSRegs v).lastDecode = s.lastDecode := rfl
@[simp] theorem State.setSRegs_wallNS (v : SRegs) : (s.setSRegs v).wallNS = s.wallNS := rfl
@[simp] theorem State.setSRegs_draws (v : SRegs) : (s.setSRegs v).draws = s.draws := rfl

/-! Update of `ip`. -/
@[simp] theorem State.setIp_cfg (v : Word) : (s.setIp v).cfg = s.cfg := rfl
@[simp] theorem State.setIp_regs (v : Word) : (s.setIp v).regs = s.regs := rfl
@[simp] theorem State.setIp_sregs (v : Word) : (s.setIp v).sregs = s.sregs := rfl
@[simp] theorem State.setIp_ip (v : Word) : (s.setIp v).ip = v := rfl
@[simp] theorem State.setIp_flags (v : Word) : (s.setIp v).flags = s.flags := rfl
@[simp] theorem State.setIp_ovr (v : Word) : (s.setIp v).ovr = s.ovr := rfl
@[simp] theorem State.setIp_rep (v : Word) : (s.setIp v).rep = s.rep := rfl
@[simp] theorem State.setIp_halted (v : Word) : (s.setIp v).halted = s.halted := rfl
@[simp] theorem State.setIp_mem (v : Word) : (s.setIp v).mem = s.mem := rfl
@[simp] theorem State.setIp_clock (v : Word) : (s.setIp v).clock = s.clock := rfl
@[simp] theorem State.setIp_pit (v : Word) : (s.setIp v).pit = s.pit := rfl
@[simp] theorem State.setIp_video (v : Word) : (s.setIp v).video = s.video := rfl
@[simp] theorem State.setIp_lastDecode (v : Word) : (s.setIp v).lastDecode = s.lastDecode := rfl
@[simp] theorem State.setIp_wallNS (v : Word) : (s.setIp v).wallNS = s.wallNS := rfl
@[simp] theorem State.setIp_draws (v : Word) : (s.setIp v).draws = s.draws := rfl

/-! Update of `flags`. -/
@[simp] theorem State.setFlags_cfg (v : Flags) : (s.setFlags v).cfg = s.cfg := rfl
@[simp] theorem State.setFlags_regs (v : Flags) : (s.setFlags v).regs = s.regs := rfl
@[simp] theorem State.setFlags_sregs (v : Flags) : (s.setFlags v).sregs = s.sregs := rfl
@[simp] theorem State.setFlags_ip (v : Flags) : (s.setFlags v).ip = s.ip := rfl
@[simp] theorem State.setFlags_flags (v : Flags) : (s.setFlags v).flags = v := rfl
@[simp] theorem State.setFlags_ovr (v : Flags) : (s.setFlags v).ovr = s.ovr := rfl
@[simp] theorem State.setFlags_rep (v : Flags) : (s.setFlags v).rep = s.rep := rfl
@[simp] theorem State.setFlags_halted (v : Flags) : (s.setFlags v).halted = s.halted := rfl
@[simp] theorem State.setFlags_mem (v : Flags) : (s.setFlags v).mem = s.mem := rfl
@[simp] theorem State.setFlags_clock (v : Flags) : (s.setFlags v).clock = s.clock := rfl
@[simp] theorem State.setFlags_pit (v : Flags) : (s.setFlags v).pit = s.pit := rfl
@[simp] theorem State.setFlags_video (v : Flags) : (s.setFlags v).video = s.video := rfl
@[simp] theorem State.setFlags_lastDecode (v : Flags) : (s.setFlags v).lastDecode = s.lastDecode := rfl
@[simp] theorem State.setFlags_wallNS (v : Flags) : (s.setFlags v).wallNS = s.wallNS := rfl
@[simp] theorem State.setFlags_draws (v : Flags) : (s.setFlags v).draws = s.draws := rfl

/-! Update of `ovr`. -/
@[simp] theorem State.setOvr_cfg (v : Option SReg) : (s.setOvr v).cfg = s.cfg := rfl
@[simp] theorem State.setOvr_regs (v : Option SReg) : (s.setOvr v).regs = s.regs := rfl
@[simp] theorem State.setOvr_sregs (v : Option SReg) : (s.setOvr v).sregs = s.sregs := rfl
@[simp] theorem State.setOvr_ip (v : Option SReg) : (s.setOvr v).ip = s.ip := rfl
@[simp] theorem State.setOvr_flags (v : Option SReg) : (s.setOvr v).flags = s.flags := rfl
@[simp] theorem State.setOvr_ovr (v : Option SReg) : (s.setOvr v).ovr = v := rfl
@[simp] theorem State.setOvr_rep (v : Option SReg) : (s.setOvr v).rep = s.rep := rfl
@[simp] theorem State.setOvr_halted (v : Option SReg) : (s.setOvr v).halted = s.halted := rfl
@[simp] theorem State.setOvr_mem (v : Option SReg) : (s.setOvr v).mem = s.mem := rfl
@[simp] theorem State.setOvr_clock (v : Option SReg) : (s.setOvr v).clock = s.clock := rfl
@[simp] theorem State.setOvr_pit (v : Option SReg) : (s.setOvr v).pit = s.pit := rfl
@[simp] theorem State.setOvr_video (v : Option SReg) : (s.setOvr v).video = s.video := rfl
@[simp] theorem State.setOvr_lastDecode (v : Option SReg) : (s.setOvr v).lastDecode = s.lastDecode := rfl
@[simp] theorem State.setOvr_wallNS (v : Option SReg) : (s.setOvr v).wallNS = s.wallNS := rfl
@[simp] theorem State.setOvr_draws (v : Option SReg) : (s.setOvr v).draws = s.draws := rfl

/-! Update of `rep`. -/
@[simp] theorem State.setRep_cfg (v : Option RepKind) : (s.setRep v).cfg = s.cfg := rfl
@[simp] theorem State.setRep_regs (v : Option RepKind) : (s.setRep v).regs = s.regs := rfl
@[simp] theorem State.setRep_sregs (v : Option RepKind) : (s.setRep v).sregs = s.sregs := rfl
@[simp] theorem State.setRep_ip (v : Option RepKind) : (s.setRep v).ip = s.ip := rfl
@[simp] theorem State.setRep_flags (v : Option RepKind) : (s.setRep v).flags = s.flags := rfl
@[simp] theorem State.setRep_ovr (v : Option RepKind) : (s.setRep v).ovr = s.ovr := rfl
@[simp] theorem State.setRep_rep (v : Option RepKind) : (s.setRep v).rep = v := rfl
@[simp] theorem State.setRep_halted (v : Option RepKind) : (s.setRep v).halted = s.halted := rfl
@[simp] theorem State.setRep_mem (v : Option RepKind) : (s.setRep v).mem = s.mem := rfl
@[simp] theorem State.setRep_clock (v : Option RepKind) : (s.setRep v).clock = s.clock := rfl
@[simp] theorem State.setRep_pit (v : Option RepKind) : (s.setRep v).pit = s.pit := rfl
@[simp] theorem State.setRep_video (v : Option RepKind) : (s.setRep v).video = s.video := rfl
@[simp] theorem State.setRep_lastDecode (v : Option RepKind) : (s.setRep v).lastDecode = s.lastDecode := rfl
@[simp] theorem State.setRep_wallNS (v : Option RepKind) : (s.setRep v).wallNS = s.wallNS := rfl
@[simp] theorem State.setRep_draws (v : Option RepKind) : (s.setRep v).draws = s.draws := rfl

/-! Update of `halted`. -/
@[simp] theorem State.setHalted_cfg (v : Bool) : (s.setHalted v).cfg = s.cfg := rfl
@[simp] theorem State.setHalted_regs (v : Bool) : (s.setHalted v).regs = s.regs := rfl
@[simp] theorem State.setHalted_sregs (v : Bool) : (s.setHalted v).sregs = s.sregs := rfl
@[simp] theorem State.setHalted_ip (v : Bool) : (s.setHalted v).ip = s.ip := rfl
@[simp] theorem State.setHalted_flags (v : Bool) : (s.setHalted v).flags = s.flags := rfl
@[simp] theorem State.setHalted_ovr (v : Bool) : (s.setHalted v).ovr = s.ovr := rfl
@[simp] theorem State.setHalted_rep (v : Bool) : (s.setHalted v).rep = s.rep := rfl
@[simp] theorem State.setHalted_halted (v : Bool) : (s.setHalted v).halted = v := rfl
@[simp] theorem State.setHalted_mem (v : Bool) : (s.setHalted v).mem = s.mem := rfl
@[simp] theorem State.setHalted_clock (v : Bool) : (s.setHalted v).clock = s.clock := rfl
@[simp] theorem State.setHalted_pit (v : Bool) : (s.setHalted v).pit = s.pit := rfl
@[simp] theorem State.setHalted_video (v : Bool) : (s.setHalted v).video = s.video := rfl
@[simp] theorem State.setHalted_lastDecode (v : Bool) : (s.setHalted v).lastDecode = s.lastDecode := rfl
@[simp] theorem State.setHalted_wallNS (v : Bool) : (s.setHalted v).wallNS = s.wallNS := rfl
@[simp] theorem State.setHalted_draws (v : Bool) : (s.setHalted v).draws = s.draws := rfl

/-! Update of `mem`. -/
@[simp] theorem State.setMem_cfg (v : Memory) : (s.setMem v).cfg = s.cfg := rfl
@[simp] theorem State.setMem_regs (v : Memory) : (s.setMem v).regs = s.regs := rfl
@[simp] theorem State.setMem_sregs (v : Memory) : (s.setMem v).sregs = s.sregs := rfl
@[simp] theorem State.setMem_ip (v : Memory) : (s.setMem v).ip = s.ip := rfl
@[simp] theorem State.setMem_flags (v : Memory) : (s.setMem v).flags = s.flags := rfl
@[simp] theorem State.setMem_ovr (v : Memory) : (s.setMem v).ovr = s.ovr := rfl
@[simp] theorem State.setMem_rep (v : Memory) : (s.setMem v).rep = s.rep := rfl
@[simp] theorem State.setMem_halted (v : Memory) : (s.setMem v).halted = s.halted := rfl
@[simp] theorem State.setMem_mem (v : Memory) : (s.setMem v).mem = v := rfl
@[simp] theorem State.setMem_clock (v : Memory) : (s.setMem v).clock = s.clock := rfl
@[simp] theorem State.setMem_pit (v : Memory) : (s.setMem v).pit = s.pit := rfl
@[simp] theorem State.setMem_video (v : Memory) : (s.setMem v).video = s.video := rfl
@[simp] theorem State.setMem_lastDecode (v : Memory) : (s.setMem v).lastDecode = s.lastDecode := rfl
@[simp] theorem State.setMem_wallNS (v : Memory) : (s.setMem v).wallNS = s.wallNS := rfl
@[simp] theorem State.setMem_draws (v : Memory) : (s.setMem v).draws = s.draws := rfl

/-! Update of `clock`. -/
@[simp] theorem State.setClock_cfg (v : Clock) : (s.setClock v).cfg = s.cfg := rfl
@[simp] theorem State.setClock_regs (v : Clock) : (s.setClock v).regs = s.regs := rfl
@[simp] theorem State.setClock_sregs (v : Clock) : (s.setClock v).sregs = s.sregs := rfl
@[simp] theorem State.setClock_ip (v : Clock) : (s.setClock v).ip = s.ip := rfl
@[simp] theorem State.setClock_flags (v : Clock) : (s.setClock v).flags = s.flags := rfl
@[simp] theorem State.setClock_ovr (v : Clock) : (s.setClock v).ovr = s.ovr := rfl
@[simp] theorem State.setClock_rep (v : Clock) : (s.setClock v).rep = s.rep := rfl
@[simp] theorem State.setClock_halted (v : Clock) : (s.setClock v).halted = s.halted := rfl
@[simp] theorem State.setClock_mem (v : Clock) : (s.setClock v).mem = s.mem := rfl
@[simp] theorem State.setClock_clock (v : Clock) : (s.setClock v).clock = v := rfl
@[simp] theorem State.setClock_pit (v : Clock) : (s.setClock v).pit = s.pit := rfl
@[simp] theorem State.setClock_video (v : Clock) : (s.setClock v).video = s.video := rfl
@[simp] theorem State.setClock_lastDecode (v : Clock) : (s.setClock v).lastDecode = s.lastDecode := rfl
@[simp] theorem State.setClock_wallNS (v : Clock) : (s.setClock v).wallNS = s.wallNS := rfl
@[simp] theorem State.setClock_draws (v : Clock) : (s.setClock v).draws = s.draws := rfl

/-! Update of `pit`. -/
@[simp] theorem State.setPit_cfg (v : Pit) : (s.setPit v).cfg = s.cfg := rfl
@[simp] theorem State.setPit_regs (v : Pit) : (s.setPit v).regs = s.regs := rfl
@[simp] theorem State.setPit_sregs (v : Pit) : (s.setPit v).sregs = s.sregs := rfl
@[simp] theorem State.setPit_ip (v : Pit) : (s.setPit v).ip = s.ip := rfl
@[simp] theorem State.setPit_flags (v : Pit) : (s.setPit v).flags = s.flags := rfl
@[simp] theorem State.setPit_ovr (v : Pit) : (s.setPit v).ovr = s.ovr := rfl
@[simp] theorem State.setPit_rep (v : Pit) : (s.setPit v).rep = s.rep := rfl
@[simp] theorem State.setPit_halted (v : Pit) : (s.setPit v).halted = s.halted := rfl
@[simp] theorem State.setPit_mem (v : Pit) : (s.setPit v).mem = s.mem := rfl
@[simp] theorem State.setPit_clock (v : Pit) : (s.setPit v).clock = s.clock := rfl
@[simp] theorem State.setPit_pit (v : Pit) : (s.setPit v).pit = v := rfl
@[simp] theorem State.setPit_video (v : Pit) : (s.setPit v).video = s.video := rfl
@[simp] theorem State.setPit_lastDecode (v : Pit) : (s.setPit v).lastDecode = s.lastDecode := rfl
@[simp] theorem State.setPit_wallNS (v : Pit) : (s.setPit v).wallNS = s.wallNS := rfl
@[simp] theorem State.setPit_draws (v : Pit) : (s.setPit v).draws = s.draws := rfl

/-! Update of `video`. -/
@[simp] theorem State.setVideo_cfg (v : Video) : (s.setVideo v).cfg = s.cfg := rfl
@[simp] theorem State.setVideo_regs (v : Video) : (s.setVideo v).regs = s.regs := rfl
@[simp] theorem State.setVideo_sregs (v : Video) : (s.setVideo v).sregs = s.sregs := rfl
@[simp] theorem State.setVideo_ip (v : Video) : (s.setVideo v).ip = s.ip := rfl
@[simp] theorem State.setVideo_flags (v : Video) : (s.setVideo v).flags = s.flags := rfl
@[simp] theorem State.setVideo_ovr (v : Video) : (s.setVideo v).ovr = s.ovr := rfl
@[simp] theorem State.setVideo_rep (v : Video) : (s.setVideo v).rep = s.rep := rfl
@[simp] theorem State.setVideo_halted (v : Video) : (s.setVideo v).halted = s.halted := rfl
@[simp] theorem State.setVideo_mem (v : Video) : (s.setVideo v).mem = s.mem := rfl
@[simp] theorem State.setVideo_clock (v : Video) : (s.setVideo v).clock = s.clock := rfl
@[simp] theorem State.setVideo_pit (v : Video) : (s.setVideo v).pit = s.pit := rfl
@[simp] theorem State.setVideo_video (v : Video) : (s.setVideo v).video = v := rfl
@[simp] theorem State.setVideo_lastDecode (v : Video) : (s.setVideo v).lastDecode = s.lastDecode := rfl
@[simp] theorem State.setVideo_wallNS (v : Video) : (s.setVideo v).wallNS = s.wallNS := rfl
@[simp] theorem State.setVideo_draws (v : Video) : (s.setVideo v).draws = s.draws := rfl

/-! Update of `lastDecode`. -/
@[simp] theorem State.setLastDecode_cfg (v : Option DecodeRecord) : (s.setLastDecode v).cfg = s.cfg := rfl
@[simp] theorem State.setLastDecode_regs (v : Option DecodeRecord) : (s.setLastDecode v).regs = s.regs := rfl
@[simp] theorem State.setLastDecode_sregs (v : Option DecodeRecord) : (s.setLastDecode v).sregs = s.sregs := rfl
@[simp] theorem State.setLastDecode_ip (v : Option DecodeRecord) : (s.setLastDecode v).ip = s.ip := rfl
@[simp] theorem State.setLastDecode_flags (v : Option DecodeRecord) : (s.setLastDecode v).flags = s.flags := rfl
@[simp] theorem State.setLastDecode_ovr (v : Option DecodeRecord) : (s.setLastDecode v).ovr = s.ovr := rfl
@[simp] theorem State.setLastDecode_rep (v : Option DecodeRecord) : (s.setLastDecode v).rep = s.rep := rfl
@[simp] theorem State.setLastDecode_halted (v : Option DecodeRecord) : (s.setLastDecode v).halted = s.halted := rfl
@[simp] theorem State.setLastDecode_mem (v : Option DecodeRecord) : (s.setLastDecode v).mem = s.mem := rfl
@[simp] theorem State.setLastDecode_clock (v : Option DecodeRecord) : (s.setLastDecode v).clock = s.clock := rfl
@[simp] theorem State.setLastDecode_pit (v : Option DecodeRecord) : (s.setLastDecode v).pit = s.pit := rfl
@[simp] theorem State.setLastDecode_video (v : Option DecodeRecord) : (s.setLastDecode v).video = s.video := rfl
@[simp] theorem State.setLastDecode_lastDecode (v : Option DecodeRecord) : (s.setLastDecode v).lastDecode = v := rfl
@[simp] theorem State.setLastDecode_wallNS (v : Option DecodeRecord) : (s.setLastDecode v).wallNS = s.wallNS := rfl
@[simp] theorem State.setLastDecode_draws (v : Option DecodeRecord) : (s.setLastDecode v).draws = s.draws := rfl

/-! Update of `wallNS`. -/
@[simp] theorem State.setWallNS_cfg (v : Rat) : (s.setWallNS v).cfg = s.cfg := rfl
@[simp] theorem State.setWallNS_regs (v : Rat) : (s.setWallNS v).regs = s.regs := rfl
@[simp] theorem State.setWallNS_sregs (v : Rat) : (s.setWallNS v).sregs = s.sregs := rfl
@[simp] theorem State.setWallNS_ip (v : Rat) : (s.setWallNS v).ip = s.ip := rfl
@[simp] theorem State.setWallNS_flags (v : Rat) : (s.setWallNS v).flags = s.flags := rfl
@[simp] theorem State.setWallNS_ovr (v : Rat) : (s.setWallNS v).ovr = s.ovr := rfl
@[simp] theorem State.setWallNS_rep (v : Rat) : (s.setWallNS v).rep = s.rep := rfl
@[simp] theorem State.setWallNS_halted (v : Rat) : (s.setWallNS v).halted = s.halted := rfl
@[simp] theorem State.setWallNS_mem (v : Rat) : (s.setWallNS v).mem = s.mem := rfl
@[simp] theorem State.setWallNS_clock (v : Rat) : (s.setWallNS v).clock = s.clock := rfl
@[simp] theorem State.setWallNS_pit (v : Rat) : (s.setWallNS v).pit = s.pit := rfl
@[simp] theorem State.setWallNS_video (v : Rat) : (s.setWallNS v).video = s.video := rfl
@[simp] theorem State.setWallNS_lastDecode (v : Rat) : (s.setWallNS v).lastDecode = s.lastDecode := rfl
@[simp] theorem State.setWallNS_wallNS (v : Rat) : (s.setWallNS v).wallNS = v := rfl
@[simp] theorem State.setWallNS_draws (v : Rat) : (s.setWallNS v).draws = s.draws := rfl

/-! Update of `draws`. -/
@[simp] theorem State.setDraws_cfg (v : Nat) : (s.setDraws v).cfg = s.cfg := rfl
@[simp] theorem State.setDraws_regs (v : Nat) : (s.setDraws v).regs = s.regs := rfl
@[simp] theorem State.setDraws_sregs (v : Nat) : (s.setDraws v).sregs = s.sregs := rfl
@[simp] theorem State.setDraws_ip (v : Nat) : (s.setDraws v).ip = s.ip := rfl
@[simp] theorem State.setDraws_flags (v : Nat) : (s.setDraws v).flags = s.flags := rfl
@[simp] theorem State.setDraws_ovr (v : Nat) : (s.setDraws v).ovr = s.ovr := rfl
@[simp] theorem State.setDraws_rep (v : Nat) : (s.setDraws v).rep = s.rep := rfl
@[simp] theorem State.setDraws_halted (v : Nat) : (s.setDraws v).halted = s.halted := rfl
@[simp] theorem State.setDraws_mem (v : Nat) : (s.setDraws v).mem = s.mem := rfl
@[simp] theorem State.setDraws_clock (v : Nat) : (s.setDraws v).clock = s.clock := rfl
@[simp] theorem State.setDraws_pit (v : Nat) : (s.setDraws v).pit = s.pit := rfl
@[simp] theorem State.setDraws_video (v : Nat) : (s.setDraws v).video = s.video := rfl
@[simp] theorem State.setDraws_lastDecode (v : Nat) : (s.setDraws v).lastDecode = s.lastDecode := rfl
@[simp] theorem State.setDraws_wallNS (v : Nat) : (s.setDraws v).wallNS = s.wallNS := rfl
@[simp] theorem State.setDraws_draws (v : Nat) : (s.setDraws v).draws = v := rfl

end FieldUpdates

end Sys2Proof.Machine
end

