-- ==== Sys2Proof/Laws/Memory.lean ====
section
/-! SUPPORT. The laws of memory: a write keeps the canonical form, a read after a write gives the value written at the
address written and the old value everywhere else; the same for the access primitives of 20_memory.md R66. -/

namespace Sys2Proof.Machine

/-! ### The cell list -/

theorem Memory.read_eq_unlisted {m : Memory} {n k : Nat} (h : Memory.risingFrom n m = true) (hk : k < n) :
    m.read k = unlistedByte := by
  cases m with
  | nil => rfl
  | cons c m =>
    obtain ⟨a, b⟩ := c
    simp only [Memory.risingFrom, Bool.and_eq_true, decide_eq_true_eq] at h
    simp only [Memory.read]
    rw [if_pos (by omega)]

theorem Memory.risingFrom_mono {m : Memory} {n n' : Nat} (h : Memory.risingFrom n m = true) (hn : n' ≤ n) :
    Memory.risingFrom n' m = true := by
  cases m with
  | nil => rfl
  | cons c m =>
    obtain ⟨a, b⟩ := c
    simp only [Memory.risingFrom, Bool.and_eq_true, decide_eq_true_eq] at h ⊢
    exact ⟨⟨by omega, h.1.2⟩, h.2⟩

theorem Memory.risingFrom_write {m : Memory} {n k : Nat} (v : Byte) (h : Memory.risingFrom n m = true) (hk : n ≤ k) :
    Memory.risingFrom n (m.write k v) = true := by
  induction m generalizing n with
  | nil =>
    simp only [Memory.write]
    split
    · rfl
    · simp [Memory.risingFrom, *]
  | cons c m ih =>
    obtain ⟨a, b⟩ := c
    simp only [Memory.risingFrom, Bool.and_eq_true, decide_eq_true_eq] at h
    simp only [Memory.write]
    split
    · split
      · simp [Memory.risingFrom, h]
      · simp only [Memory.risingFrom, Bool.and_eq_true, decide_eq_true_eq]
        exact ⟨⟨hk, by simpa⟩, ⟨by omega, h.1.2⟩, h.2⟩
    · split
      · split
        · exact Memory.risingFrom_mono h.2 (by omega)
        · subst k
          simp only [Memory.risingFrom, Bool.and_eq_true, decide_eq_true_eq]
          exact ⟨⟨hk, by simpa⟩, h.2⟩
      · simp only [Memory.risingFrom, Bool.and_eq_true, decide_eq_true_eq]
        exact ⟨h.1, ih h.2 (by omega)⟩

/-- A write keeps the canonical form. -/
theorem Memory.wf_write {m : Memory} (k : Nat) (v : Byte) (h : m.wf = true) : (m.write k v).wf = true :=
  Memory.risingFrom_write v h (Nat.zero_le k)

/-- A write below the bound keeps every listed address below it. -/
theorem Memory.below_write {m : Memory} {n k : Nat} (v : Byte) (h : Memory.below n m = true) (hk : k < n) :
    Memory.below n (m.write k v) = true := by
  induction m with
  | nil =>
    simp only [Memory.write]
    split <;> simp [Memory.below, hk]
  | cons c m ih =>
    obtain ⟨a, b⟩ := c
    simp only [Memory.below, List.all_cons, Bool.and_eq_true, decide_eq_true_eq] at h
    have ih' := ih h.2
    simp only [Memory.below] at ih'
    simp only [Memory.write]
    split
    · split <;> simp [Memory.below, h.1, h.2, hk]
    · split
      · split
        · exact h.2
        · simp [Memory.below, h.2, hk]
      · simp only [Memory.below, List.all_cons, Bool.and_eq_true, decide_eq_true_eq]
        exact ⟨h.1, ih'⟩

theorem Memory.read_write_from {m : Memory} {n k : Nat} (v : Byte) (j : Nat) (h : Memory.risingFrom n m = true)
    (hk : n ≤ k) : (m.write k v).read j = if j = k then v else m.read j := by
  induction m generalizing n with
  | nil =>
    simp only [Memory.write]
    split <;> rename_i hv
    · subst hv; simp [Memory.read]
    · simp only [Memory.read]
      split
      · rw [if_neg (by omega)]
      · rfl
  | cons c m ih =>
    obtain ⟨a, b⟩ := c
    simp only [Memory.risingFrom, Bool.and_eq_true, decide_eq_true_eq] at h
    simp only [Memory.write]
    split
    · split <;> rename_i hv
      · subst hv
        split
        · subst j; simp only [Memory.read]; rw [if_pos (by omega)]
        · rfl
      · rw [Memory.read]
        split
        · rw [if_neg (by omega)]; simp only [Memory.read]; rw [if_pos (by omega)]
        · rfl
    · split <;> rename_i hka
      · subst hka
        split <;> rename_i hv
        · subst hv
          split <;> rename_i hj
          · subst hj; exact Memory.read_eq_unlisted h.2 (by omega)
          · simp only [Memory.read]
            split
            · exact Memory.read_eq_unlisted h.2 (by omega)
            · rfl
        · simp only [Memory.read]
          split
          · rw [if_neg (by omega)]
          · split <;> rfl
      · simp only [Memory.read]
        split
        · rw [if_neg (by omega)]
        · split
          · rw [if_neg (by omega)]
          · exact ih h.2 (by omega)

/-- Reading after a write, at every address. -/
theorem Memory.read_write {m : Memory} (k : Nat) (v : Byte) (j : Nat) (h : m.wf = true) :
    (m.write k v).read j = if j = k then v else m.read j :=
  Memory.read_write_from v j h (Nat.zero_le k)

/-! ### Words and their bytes -/

theorem toNat_wordOfBytes (lo hi : Byte) : (wordOfBytes lo hi).toNat = hi.toNat * 256 + lo.toNat := by
  have := lo.isLt
  simp only [wordOfBytes, BitVec.toNat_append]
  rw [← Nat.shiftLeft_add_eq_or_of_lt this, Nat.shiftLeft_eq]

theorem toNat_loByte (v : Word) : (loByte v).toNat = v.toNat % 256 := by
  simp [loByte, BitVec.extractLsb'_toNat]

theorem toNat_hiByte (v : Word) : (hiByte v).toNat = v.toNat / 256 := by
  have := v.isLt
  simp only [hiByte, BitVec.extractLsb'_toNat, Nat.shiftRight_eq_div_pow]
  omega

@[simp] theorem loByte_wordOfBytes (lo hi : Byte) : loByte (wordOfBytes lo hi) = lo := by
  apply BitVec.eq_of_toNat_eq; have := lo.isLt; rw [toNat_loByte, toNat_wordOfBytes]; omega

@[simp] theorem hiByte_wordOfBytes (lo hi : Byte) : hiByte (wordOfBytes lo hi) = hi := by
  apply BitVec.eq_of_toNat_eq; have := lo.isLt; rw [toNat_hiByte, toNat_wordOfBytes]; omega

@[simp] theorem wordOfBytes_lo_hi (v : Word) : wordOfBytes (loByte v) (hiByte v) = v := by
  apply BitVec.eq_of_toNat_eq; rw [toNat_wordOfBytes, toNat_loByte, toNat_hiByte]; omega

/-! ### The access primitives: which fields a store leaves alone -/

@[simp] theorem State.memWrite8_regs (s : State) (a v) : (s.memWrite8 a v).regs = s.regs := rfl
@[simp] theorem State.memWrite8_sregs (s : State) (a v) : (s.memWrite8 a v).sregs = s.sregs := rfl
@[simp] theorem State.memWrite8_cfg (s : State) (a v) : (s.memWrite8 a v).cfg = s.cfg := rfl
@[simp] theorem State.memWrite8_ip (s : State) (a v) : (s.memWrite8 a v).ip = s.ip := rfl
@[simp] theorem State.memWrite8_flags (s : State) (a v) : (s.memWrite8 a v).flags = s.flags := rfl
@[simp] theorem State.memWrite8_ovr (s : State) (a v) : (s.memWrite8 a v).ovr = s.ovr := rfl
@[simp] theorem State.memWrite8_rep (s : State) (a v) : (s.memWrite8 a v).rep = s.rep := rfl
@[simp] theorem State.memWrite8_halted (s : State) (a v) : (s.memWrite8 a v).halted = s.halted := rfl
@[simp] theorem State.memWrite8_clock (s : State) (a v) : (s.memWrite8 a v).clock = s.clock := rfl
@[simp] theorem State.memWrite8_pit (s : State) (a v) : (s.memWrite8 a v).pit = s.pit := rfl
@[simp] theorem State.memWrite8_video (s : State) (a v) : (s.memWrite8 a v).video = s.video := rfl
@[simp] theorem State.memWrite8_lastDecode (s : State) (a v) : (s.memWrite8 a v).lastDecode = s.lastDecode := rfl
@[simp] theorem State.memWrite8_wallNS (s : State) (a v) : (s.memWrite8 a v).wallNS = s.wallNS := rfl
@[simp] theorem State.memWrite8_draws (s : State) (a v) : (s.memWrite8 a v).draws = s.draws := rfl
@[simp] theorem State.memWrite8_mem (s : State) (a v) : (s.memWrite8 a v).mem = s.mem.write (s.index a) v := rfl

@[simp] theorem State.memWrite16_regs (s : State) (a v) : (s.memWrite16 a v).regs = s.regs := rfl
@[simp] theorem State.memWrite16_sregs (s : State) (a v) : (s.memWrite16 a v).sregs = s.sregs := rfl
@[simp] theorem State.memWrite16_cfg (s : State) (a v) : (s.memWrite16 a v).cfg = s.cfg := rfl
@[simp] theorem State.memWrite16_ip (s : State) (a v) : (s.memWrite16 a v).ip = s.ip := rfl
@[simp] theorem State.memWrite16_flags (s : State) (a v) : (s.memWrite16 a v).flags = s.flags := rfl
@[simp] theorem State.memWrite16_ovr (s : State) (a v) : (s.memWrite16 a v).ovr = s.ovr := rfl
@[simp] theorem State.memWrite16_rep (s : State) (a v) : (s.memWrite16 a v).rep = s.rep := rfl
@[simp] theorem State.memWrite16_halted (s : State) (a v) : (s.memWrite16 a v).halted = s.halted := rfl
@[simp] theorem State.memWrite16_clock (s : State) (a v) : (s.memWrite16 a v).clock = s.clock := rfl
@[simp] theorem State.memWrite16_pit (s : State) (a v) : (s.memWrite16 a v).pit = s.pit := rfl
@[simp] theorem State.memWrite16_video (s : State) (a v) : (s.memWrite16 a v).video = s.video := rfl
@[simp] theorem State.memWrite16_lastDecode (s : State) (a v) : (s.memWrite16 a v).lastDecode = s.lastDecode := rfl
@[simp] theorem State.memWrite16_wallNS (s : State) (a v) : (s.memWrite16 a v).wallNS = s.wallNS := rfl
@[simp] theorem State.memWrite16_draws (s : State) (a v) : (s.memWrite16 a v).draws = s.draws := rfl
theorem State.memWrite16_mem (s : State) (a v) :
    (s.memWrite16 a v).mem = (s.mem.write (s.index a) (loByte v)).write (s.index (a + 1)) (hiByte v) := rfl

@[simp] theorem State.write8_eq (s : State) (seg off v) : s.write8 seg off v = s.memWrite8 (s.seg2abs seg off) v := rfl
@[simp] theorem State.write16_eq (s : State) (seg off v) : s.write16 seg off v = s.memWrite16 (s.seg2abs seg off) v :=
  rfl

/-! ### Reading after a store -/

theorem State.index_lt (s : State) (a : Nat) (h : 0 < s.cfg.memSize) : s.index a < s.cfg.memSize := Nat.mod_lt a h

/-- Two adjacent linear addresses have different array indices. -/
theorem State.index_succ_ne (s : State) (a : Nat) (h : 2 ≤ s.cfg.memSize) : s.index (a + 1) ≠ s.index a := by
  unfold State.index
  intro e
  have := Nat.sub_mod_eq_zero_of_mod_eq e
  simp at this
  omega

theorem State.memRead8_memWrite8 (s : State) (a b : Nat) (v : Byte) (h : s.mem.wf = true) :
    (s.memWrite8 a v).memRead8 b = if s.index b = s.index a then v else s.memRead8 b := by
  simp only [State.memRead8, State.memWrite8, State.setMem_mem]
  exact Memory.read_write _ _ _ h

theorem State.memRead8_memWrite16 (s : State) (a b : Nat) (v : Word) (h : s.mem.wf = true) :
    (s.memWrite16 a v).memRead8 b =
      if s.index b = s.index (a + 1) then hiByte v else if s.index b = s.index a then loByte v else s.memRead8 b := by
  have h1 : (s.memWrite8 a (loByte v)).mem.wf = true := Memory.wf_write _ _ h
  simp only [State.memWrite16]
  rw [State.memRead8_memWrite8 _ _ _ _ h1, State.memRead8_memWrite8 _ _ _ _ h]
  rfl

/-- A word reads back as written. -/
theorem State.memRead16_memWrite16 (s : State) (a : Nat) (v : Word) (h : s.mem.wf = true) (hs : 2 ≤ s.cfg.memSize) :
    (s.memWrite16 a v).memRead16 a = v := by
  unfold State.memRead16
  rw [State.memRead8_memWrite16 _ _ _ _ h, State.memRead8_memWrite16 _ _ _ _ h]
  simp [(State.index_succ_ne s a hs).symm]

theorem State.memWrite8_wf (s : State) (a v) (h : s.mem.wf = true) : (s.memWrite8 a v).mem.wf = true :=
  Memory.wf_write _ _ h

theorem State.memWrite16_wf (s : State) (a v) (h : s.mem.wf = true) : (s.memWrite16 a v).mem.wf = true :=
  Memory.wf_write _ _ (Memory.wf_write _ _ h)

theorem State.memWrite8_below (s : State) (a v) (h : Memory.below s.cfg.memSize s.mem = true)
    (hs : 0 < s.cfg.memSize) : Memory.below s.cfg.memSize (s.memWrite8 a v).mem = true :=
  Memory.below_write _ h (s.index_lt a hs)

theorem State.memWrite16_below (s : State) (a v) (h : Memory.below s.cfg.memSize s.mem = true)
    (hs : 0 < s.cfg.memSize) : Memory.below s.cfg.memSize (s.memWrite16 a v).mem = true :=
  Memory.below_write _ (Memory.below_write _ h (s.index_lt a hs)) (s.index_lt (a + 1) hs)

/-- The memory of reset is in canonical form. -/
theorem resetWith_mem_wf (cfg : Config) : (State.resetWith cfg).mem.wf = true := rfl

end Sys2Proof.Machine
end

