-- ==== Sys2Proof/Laws/Registers.lean ====
section
/-! SUPPORT. The register file: what a register read gives after a register write, and what a register write leaves in
every other field (10_state.md R21 to R25). -/

namespace Sys2Proof.Machine

/-! ### Word registers -/

@[simp] theorem State.reg16_setReg16 (s : State) (r q : Reg16) (v : Word) :
    (s.setReg16 r v).reg16 q = if q = r then v else s.reg16 q := by
  cases r <;> cases q <;> rfl

@[simp] theorem State.setReg16_cfg (s : State) (r : Reg16) (v : Word) : (s.setReg16 r v).cfg = s.cfg := by
  cases r <;> rfl
@[simp] theorem State.setReg16_sregs (s : State) (r : Reg16) (v : Word) : (s.setReg16 r v).sregs = s.sregs := by
  cases r <;> rfl
@[simp] theorem State.setReg16_ip (s : State) (r : Reg16) (v : Word) : (s.setReg16 r v).ip = s.ip := by
  cases r <;> rfl
@[simp] theorem State.setReg16_flags (s : State) (r : Reg16) (v : Word) : (s.setReg16 r v).flags = s.flags := by
  cases r <;> rfl
@[simp] theorem State.setReg16_ovr (s : State) (r : Reg16) (v : Word) : (s.setReg16 r v).ovr = s.ovr := by
  cases r <;> rfl
@[simp] theorem State.setReg16_rep (s : State) (r : Reg16) (v : Word) : (s.setReg16 r v).rep = s.rep := by
  cases r <;> rfl
@[simp] theorem State.setReg16_halted (s : State) (r : Reg16) (v : Word) : (s.setReg16 r v).halted = s.halted := by
  cases r <;> rfl
@[simp] theorem State.setReg16_mem (s : State) (r : Reg16) (v : Word) : (s.setReg16 r v).mem = s.mem := by
  cases r <;> rfl
@[simp] theorem State.setReg16_clock (s : State) (r : Reg16) (v : Word) : (s.setReg16 r v).clock = s.clock := by
  cases r <;> rfl
@[simp] theorem State.setReg16_pit (s : State) (r : Reg16) (v : Word) : (s.setReg16 r v).pit = s.pit := by
  cases r <;> rfl
@[simp] theorem State.setReg16_video (s : State) (r : Reg16) (v : Word) : (s.setReg16 r v).video = s.video := by
  cases r <;> rfl
@[simp] theorem State.setReg16_lastDecode (s : State) (r : Reg16) (v : Word) : (s.setReg16 r v).lastDecode = s.lastDecode := by
  cases r <;> rfl
@[simp] theorem State.setReg16_wallNS (s : State) (r : Reg16) (v : Word) : (s.setReg16 r v).wallNS = s.wallNS := by
  cases r <;> rfl
@[simp] theorem State.setReg16_draws (s : State) (r : Reg16) (v : Word) : (s.setReg16 r v).draws = s.draws := by
  cases r <;> rfl

/-- A word register reads from the register file alone. -/
theorem State.reg16_congr {s t : State} (h : t.regs = s.regs) (r : Reg16) : t.reg16 r = s.reg16 r := by
  cases r <;> simp only [State.reg16, h]

/-- Two register files with the same eight words are equal. -/
theorem regs_ext {s t : State} (h : ∀ r, t.reg16 r = s.reg16 r) : t.regs = s.regs := by
  have := h .ax; have := h .cx; have := h .dx; have := h .bx
  have := h .sp; have := h .bp; have := h .si; have := h .di
  cases hs : s.regs; cases ht : t.regs
  simp_all [State.reg16]

/-! ### Byte registers -/

theorem State.reg8_low (s : State) (r : Reg8) (h : r.isHigh = false) : s.reg8 r = loByte (s.reg16 r.word) := by
  simp [State.reg8, h]

theorem State.reg8_high (s : State) (r : Reg8) (h : r.isHigh = true) : s.reg8 r = hiByte (s.reg16 r.word) := by
  simp [State.reg8, h]

@[simp] theorem State.reg8_setReg8 (s : State) (r q : Reg8) (v : Byte) :
    (s.setReg8 r v).reg8 q = if q = r then v else s.reg8 q := by
  cases r <;> cases q <;> simp [State.reg8, State.setReg8, Reg8.isHigh, Reg8.word]

/-- A byte write leaves the word registers that have no halves. -/
theorem State.reg16_setReg8_of_ne (s : State) (r : Reg8) (v : Byte) (q : Reg16) (h : q ≠ r.word) :
    (s.setReg8 r v).reg16 q = s.reg16 q := by
  simp [State.setReg8, h]

/-- The word a byte write leaves in its register (10_state.md R23). -/
theorem State.reg16_setReg8_word (s : State) (r : Reg8) (v : Byte) :
    (s.setReg8 r v).reg16 r.word =
      if r.isHigh then wordOfBytes (loByte (s.reg16 r.word)) v else wordOfBytes v (hiByte (s.reg16 r.word)) := by
  simp [State.setReg8]

theorem State.reg8_setReg16_of_ne (s : State) (r : Reg16) (v : Word) (q : Reg8) (h : q.word ≠ r) :
    (s.setReg16 r v).reg8 q = s.reg8 q := by
  simp [State.reg8, h]

theorem State.reg8_congr {s t : State} (h : t.regs = s.regs) (r : Reg8) : t.reg8 r = s.reg8 r := by
  simp [State.reg8, State.reg16_congr h]

/-- The word made of a register's two halves. -/
theorem State.ax_eq (s : State) : s.reg16 .ax = wordOfBytes (s.reg8 .al) (s.reg8 .ah) := by
  simp [State.reg8, Reg8.isHigh, Reg8.word]

@[simp] theorem State.setReg8_cfg (s : State) (r : Reg8) (v : Byte) : (s.setReg8 r v).cfg = s.cfg := by
  simp [State.setReg8]
@[simp] theorem State.setReg8_sregs (s : State) (r : Reg8) (v : Byte) : (s.setReg8 r v).sregs = s.sregs := by
  simp [State.setReg8]
@[simp] theorem State.setReg8_ip (s : State) (r : Reg8) (v : Byte) : (s.setReg8 r v).ip = s.ip := by
  simp [State.setReg8]
@[simp] theorem State.setReg8_flags (s : State) (r : Reg8) (v : Byte) : (s.setReg8 r v).flags = s.flags := by
  simp [State.setReg8]
@[simp] theorem State.setReg8_ovr (s : State) (r : Reg8) (v : Byte) : (s.setReg8 r v).ovr = s.ovr := by
  simp [State.setReg8]
@[simp] theorem State.setReg8_rep (s : State) (r : Reg8) (v : Byte) : (s.setReg8 r v).rep = s.rep := by
  simp [State.setReg8]
@[simp] theorem State.setReg8_halted (s : State) (r : Reg8) (v : Byte) : (s.setReg8 r v).halted = s.halted := by
  simp [State.setReg8]
@[simp] theorem State.setReg8_mem (s : State) (r : Reg8) (v : Byte) : (s.setReg8 r v).mem = s.mem := by
  simp [State.setReg8]
@[simp] theorem State.setReg8_clock (s : State) (r : Reg8) (v : Byte) : (s.setReg8 r v).clock = s.clock := by
  simp [State.setReg8]
@[simp] theorem State.setReg8_pit (s : State) (r : Reg8) (v : Byte) : (s.setReg8 r v).pit = s.pit := by
  simp [State.setReg8]
@[simp] theorem State.setReg8_video (s : State) (r : Reg8) (v : Byte) : (s.setReg8 r v).video = s.video := by
  simp [State.setReg8]
@[simp] theorem State.setReg8_lastDecode (s : State) (r : Reg8) (v : Byte) : (s.setReg8 r v).lastDecode = s.lastDecode := by
  simp [State.setReg8]
@[simp] theorem State.setReg8_wallNS (s : State) (r : Reg8) (v : Byte) : (s.setReg8 r v).wallNS = s.wallNS := by
  simp [State.setReg8]
@[simp] theorem State.setReg8_draws (s : State) (r : Reg8) (v : Byte) : (s.setReg8 r v).draws = s.draws := by
  simp [State.setReg8]

/-! ### Segment registers -/

@[simp] theorem State.sreg_setSReg (s : State) (r q : SReg) (v : Word) :
    (s.setSReg r v).sreg q = if q = r then v else s.sreg q := by
  cases r <;> cases q <;> rfl

theorem State.sreg_congr {s t : State} (h : t.sregs = s.sregs) (r : SReg) : t.sreg r = s.sreg r := by
  cases r <;> simp only [State.sreg, h]

theorem sregs_ext {s t : State} (h : ∀ r, t.sreg r = s.sreg r) : t.sregs = s.sregs := by
  have := h .es; have := h .cs; have := h .ss; have := h .ds
  cases hs : s.sregs; cases ht : t.sregs
  simp_all [State.sreg]

@[simp] theorem State.setSReg_cfg (s : State) (r : SReg) (v : Word) : (s.setSReg r v).cfg = s.cfg := by
  cases r <;> rfl
@[simp] theorem State.setSReg_ip (s : State) (r : SReg) (v : Word) : (s.setSReg r v).ip = s.ip := by
  cases r <;> rfl
@[simp] theorem State.setSReg_flags (s : State) (r : SReg) (v : Word) : (s.setSReg r v).flags = s.flags := by
  cases r <;> rfl
@[simp] theorem State.setSReg_ovr (s : State) (r : SReg) (v : Word) : (s.setSReg r v).ovr = s.ovr := by
  cases r <;> rfl
@[simp] theorem State.setSReg_rep (s : State) (r : SReg) (v : Word) : (s.setSReg r v).rep = s.rep := by
  cases r <;> rfl
@[simp] theorem State.setSReg_halted (s : State) (r : SReg) (v : Word) : (s.setSReg r v).halted = s.halted := by
  cases r <;> rfl
@[simp] theorem State.setSReg_mem (s : State) (r : SReg) (v : Word) : (s.setSReg r v).mem = s.mem := by
  cases r <;> rfl
@[simp] theorem State.setSReg_clock (s : State) (r : SReg) (v : Word) : (s.setSReg r v).clock = s.clock := by
  cases r <;> rfl
@[simp] theorem State.setSReg_pit (s : State) (r : SReg) (v : Word) : (s.setSReg r v).pit = s.pit := by
  cases r <;> rfl
@[simp] theorem State.setSReg_video (s : State) (r : SReg) (v : Word) : (s.setSReg r v).video = s.video := by
  cases r <;> rfl
@[simp] theorem State.setSReg_lastDecode (s : State) (r : SReg) (v : Word) : (s.setSReg r v).lastDecode = s.lastDecode := by
  cases r <;> rfl
@[simp] theorem State.setSReg_wallNS (s : State) (r : SReg) (v : Word) : (s.setSReg r v).wallNS = s.wallNS := by
  cases r <;> rfl
@[simp] theorem State.setSReg_draws (s : State) (r : SReg) (v : Word) : (s.setSReg r v).draws = s.draws := by
  cases r <;> rfl
@[simp] theorem State.setSReg_regs (s : State) (r : SReg) (v : Word) : (s.setSReg r v).regs = s.regs := by
  cases r <;> rfl

/-! ### Reads through a one-field update -/

@[simp] theorem State.reg16_setSRegs (s : State) (v : SRegs) (r) : (s.setSRegs v).reg16 r = s.reg16 r := by cases r <;> rfl
@[simp] theorem State.reg8_setSRegs (s : State) (v : SRegs) (r) : (s.setSRegs v).reg8 r = s.reg8 r := by cases r <;> rfl
@[simp] theorem State.reg16_setIp (s : State) (v : Word) (r) : (s.setIp v).reg16 r = s.reg16 r := by cases r <;> rfl
@[simp] theorem State.reg8_setIp (s : State) (v : Word) (r) : (s.setIp v).reg8 r = s.reg8 r := by cases r <;> rfl
@[simp] theorem State.reg16_setFlags (s : State) (v : Flags) (r) : (s.setFlags v).reg16 r = s.reg16 r := by cases r <;> rfl
@[simp] theorem State.reg8_setFlags (s : State) (v : Flags) (r) : (s.setFlags v).reg8 r = s.reg8 r := by cases r <;> rfl
@[simp] theorem State.reg16_setOvr (s : State) (v : Option SReg) (r) : (s.setOvr v).reg16 r = s.reg16 r := by cases r <;> rfl
@[simp] theorem State.reg8_setOvr (s : State) (v : Option SReg) (r) : (s.setOvr v).reg8 r = s.reg8 r := by cases r <;> rfl
@[simp] theorem State.reg16_setRep (s : State) (v : Option RepKind) (r) : (s.setRep v).reg16 r = s.reg16 r := by cases r <;> rfl
@[simp] theorem State.reg8_setRep (s : State) (v : Option RepKind) (r) : (s.setRep v).reg8 r = s.reg8 r := by cases r <;> rfl
@[simp] theorem State.reg16_setHalted (s : State) (v : Bool) (r) : (s.setHalted v).reg16 r = s.reg16 r := by cases r <;> rfl
@[simp] theorem State.reg8_setHalted (s : State) (v : Bool) (r) : (s.setHalted v).reg8 r = s.reg8 r := by cases r <;> rfl
@[simp] theorem State.reg16_setMem (s : State) (v : Memory) (r) : (s.setMem v).reg16 r = s.reg16 r := by cases r <;> rfl
@[simp] theorem State.reg8_setMem (s : State) (v : Memory) (r) : (s.setMem v).reg8 r = s.reg8 r := by cases r <;> rfl
@[simp] theorem State.reg16_setClock (s : State) (v : Clock) (r) : (s.setClock v).reg16 r = s.reg16 r := by cases r <;> rfl
@[simp] theorem State.reg8_setClock (s : State) (v : Clock) (r) : (s.setClock v).reg8 r = s.reg8 r := by cases r <;> rfl
@[simp] theorem State.reg16_setPit (s : State) (v : Pit) (r) : (s.setPit v).reg16 r = s.reg16 r := by cases r <;> rfl
@[simp] theorem State.reg8_setPit (s : State) (v : Pit) (r) : (s.setPit v).reg8 r = s.reg8 r := by cases r <;> rfl
@[simp] theorem State.reg16_setLastDecode (s : State) (v : Option DecodeRecord) (r) : (s.setLastDecode v).reg16 r = s.reg16 r := by cases r <;> rfl
@[simp] theorem State.reg8_setLastDecode (s : State) (v : Option DecodeRecord) (r) : (s.setLastDecode v).reg8 r = s.reg8 r := by cases r <;> rfl
@[simp] theorem State.reg16_setWallNS (s : State) (v : Rat) (r) : (s.setWallNS v).reg16 r = s.reg16 r := by cases r <;> rfl
@[simp] theorem State.reg8_setWallNS (s : State) (v : Rat) (r) : (s.setWallNS v).reg8 r = s.reg8 r := by cases r <;> rfl
@[simp] theorem State.reg16_setDraws (s : State) (v : Nat) (r) : (s.setDraws v).reg16 r = s.reg16 r := by cases r <;> rfl
@[simp] theorem State.reg8_setDraws (s : State) (v : Nat) (r) : (s.setDraws v).reg8 r = s.reg8 r := by cases r <;> rfl
@[simp] theorem State.sreg_setIp (s : State) (v : Word) (r) : (s.setIp v).sreg r = s.sreg r := by cases r <;> rfl
@[simp] theorem State.sreg_setFlags (s : State) (v : Flags) (r) : (s.setFlags v).sreg r = s.sreg r := by cases r <;> rfl
@[simp] theorem State.sreg_setOvr (s : State) (v : Option SReg) (r) : (s.setOvr v).sreg r = s.sreg r := by cases r <;> rfl
@[simp] theorem State.sreg_setRep (s : State) (v : Option RepKind) (r) : (s.setRep v).sreg r = s.sreg r := by cases r <;> rfl
@[simp] theorem State.sreg_setHalted (s : State) (v : Bool) (r) : (s.setHalted v).sreg r = s.sreg r := by cases r <;> rfl
@[simp] theorem State.sreg_setMem (s : State) (v : Memory) (r) : (s.setMem v).sreg r = s.sreg r := by cases r <;> rfl
@[simp] theorem State.sreg_setClock (s : State) (v : Clock) (r) : (s.setClock v).sreg r = s.sreg r := by cases r <;> rfl
@[simp] theorem State.sreg_setPit (s : State) (v : Pit) (r) : (s.setPit v).sreg r = s.sreg r := by cases r <;> rfl
@[simp] theorem State.sreg_setLastDecode (s : State) (v : Option DecodeRecord) (r) : (s.setLastDecode v).sreg r = s.sreg r := by cases r <;> rfl
@[simp] theorem State.sreg_setWallNS (s : State) (v : Rat) (r) : (s.setWallNS v).sreg r = s.sreg r := by cases r <;> rfl
@[simp] theorem State.sreg_setDraws (s : State) (v : Nat) (r) : (s.setDraws v).sreg r = s.sreg r := by cases r <;> rfl
@[simp] theorem State.sreg_setRegs (s : State) (v : Regs) (r) : (s.setRegs v).sreg r = s.sreg r := by cases r <;> rfl

@[simp] theorem State.sreg_setReg16 (s : State) (r v q) : (s.setReg16 r v).sreg q = s.sreg q := State.sreg_congr (by simp) q
@[simp] theorem State.sreg_setReg8 (s : State) (r v q) : (s.setReg8 r v).sreg q = s.sreg q := State.sreg_congr (by simp) q
@[simp] theorem State.reg16_setSReg (s : State) (r v q) : (s.setSReg r v).reg16 q = s.reg16 q :=
  State.reg16_congr (by simp) q
@[simp] theorem State.reg8_setSReg (s : State) (r v q) : (s.setSReg r v).reg8 q = s.reg8 q := State.reg8_congr (by simp) q
@[simp] theorem State.reg16_memWrite8 (s : State) (a v q) : (s.memWrite8 a v).reg16 q = s.reg16 q :=
  State.reg16_congr rfl q
@[simp] theorem State.reg16_memWrite16 (s : State) (a v q) : (s.memWrite16 a v).reg16 q = s.reg16 q :=
  State.reg16_congr rfl q
@[simp] theorem State.reg8_memWrite8 (s : State) (a v q) : (s.memWrite8 a v).reg8 q = s.reg8 q := State.reg8_congr rfl q
@[simp] theorem State.reg8_memWrite16 (s : State) (a v q) : (s.memWrite16 a v).reg8 q = s.reg8 q := State.reg8_congr rfl q
@[simp] theorem State.sreg_memWrite8 (s : State) (a v q) : (s.memWrite8 a v).sreg q = s.sreg q := State.sreg_congr rfl q
@[simp] theorem State.sreg_memWrite16 (s : State) (a v q) : (s.memWrite16 a v).sreg q = s.sreg q := State.sreg_congr rfl q

/-! ### Memory reads and addresses depend on their own fields alone -/

theorem State.seg2abs_congr {s t : State} (hs : t.sregs = s.sregs) (ho : t.ovr = s.ovr) (seg off) :
    t.seg2abs seg off = s.seg2abs seg off := by
  simp [State.seg2abs, ho, State.sreg_congr hs]

theorem State.memRead8_congr {s t : State} (hm : t.mem = s.mem) (hc : t.cfg = s.cfg) (a) :
    t.memRead8 a = s.memRead8 a := by
  simp [State.memRead8, State.index, hm, hc]

theorem State.memRead16_congr {s t : State} (hm : t.mem = s.mem) (hc : t.cfg = s.cfg) (a) :
    t.memRead16 a = s.memRead16 a := by
  simp [State.memRead16, State.memRead8_congr hm hc]

theorem State.index_congr {s t : State} (hc : t.cfg = s.cfg) (a) : t.index a = s.index a := by
  simp [State.index, hc]

end Sys2Proof.Machine
end

