-- ==== Sys2Proof/Laws/Devices.lean ====
section
/-! SUPPORT. The device side: what the interval timer and the clock leave unchanged (60_exceptions.md R364, R387), the port map, the
timer registry. -/

namespace Sys2Proof.Machine

theorem portMap_of_unclaimed {s : State} {p : Word} (h : s.unclaimed p) : portMap s.cfg p = none := by
  unfold portMap
  cases hb : s.cfg.pitBase with
  | none => rfl
  | some base =>
    have := h base hb
    simp only
    split <;> first | rfl | omega

def portOf : Nat → Option PitPort
    | 0 => some (.count .ch0)
    | 1 => some (.count .ch1)
    | 2 => some (.count .ch2)
    | 3 => some .control
    | _ => none

theorem portMap_of_timerPort {s : State} {p : Word} {k : Nat} (h : s.timerPort p k) : portMap s.cfg p = portOf k := by
  obtain ⟨base, hb, hk⟩ := h
  unfold portMap
  simp only [hb]
  subst hk; rfl

theorem Pit.channel_setChannel (p : Pit) (c x : Channel) (v) : (p.setChannel c v).channel x = if x = c then v else p.channel x := by
  cases c <;> cases x <;> rfl

/-- `t` differs from `s` at most in the interval timer, the clock, the video device's output, the host's time and the count of draws. -/
structure DeviceOnly (s t : State) : Prop where
  cfg : t.cfg = s.cfg
  regs : t.regs = s.regs
  sregs : t.sregs = s.sregs
  ip : t.ip = s.ip
  flags : t.flags = s.flags
  ovr : t.ovr = s.ovr
  rep : t.rep = s.rep
  halted : t.halted = s.halted
  mem : t.mem = s.mem
  lastDecode : t.lastDecode = s.lastDecode

theorem DeviceOnly.refl (s : State) : DeviceOnly s s := ⟨rfl,rfl,rfl,rfl,rfl,rfl,rfl,rfl,rfl,rfl⟩

theorem DeviceOnly.trans {s t u : State} (h : DeviceOnly s t) (k : DeviceOnly t u) : DeviceOnly s u := ⟨k.cfg.trans h.cfg, k.regs.trans h.regs, k.sregs.trans h.sregs, k.ip.trans h.ip, k.flags.trans h.flags, k.ovr.trans h.ovr, k.rep.trans h.rep, k.halted.trans h.halted, k.mem.trans h.mem, k.lastDecode.trans h.lastDecode⟩

theorem DeviceOnly.setChannel (s : State) (c v) : DeviceOnly s (s.setChannel c v) := ⟨rfl,rfl,rfl,rfl,rfl,rfl,rfl,rfl,rfl,rfl⟩

theorem DeviceOnly.addTimer (s : State) (t v) : DeviceOnly s (s.addTimer t v).2 := ⟨rfl,rfl,rfl,rfl,rfl,rfl,rfl,rfl,rfl,rfl⟩

theorem DeviceOnly.removeTimer (s : State) (c) : DeviceOnly s (s.removeTimer c) := ⟨rfl,rfl,rfl,rfl,rfl,rfl,rfl,rfl,rfl,rfl⟩

theorem DeviceOnly.removeChannelTimer (s : State) (c) : DeviceOnly s (s.removeChannelTimer c) := ⟨rfl,rfl,rfl,rfl,rfl,rfl,rfl,rfl,rfl,rfl⟩

theorem DeviceOnly.now (s : State) : DeviceOnly s (s.now).2 := ⟨rfl,rfl,rfl,rfl,rfl,rfl,rfl,rfl,rfl,rfl⟩

theorem DeviceOnly.setDraws (s : State) (n) : DeviceOnly s (s.setDraws n) := ⟨rfl,rfl,rfl,rfl,rfl,rfl,rfl,rfl,rfl,rfl⟩

theorem DeviceOnly.setClock (s : State) (n) : DeviceOnly s (s.setClock n) := ⟨rfl,rfl,rfl,rfl,rfl,rfl,rfl,rfl,rfl,rfl⟩

theorem DeviceOnly.drawCountByte (s : State) (b) : DeviceOnly s (s.drawCountByte b).2 := DeviceOnly.setDraws s _

theorem DeviceOnly.drawWord (s : State) : DeviceOnly s (s.drawWord).2 := ⟨rfl,rfl,rfl,rfl,rfl,rfl,rfl,rfl,rfl,rfl⟩

theorem DeviceOnly.liveCount (s : State) (c) : DeviceOnly s (s.liveCount c).2 := by
  unfold State.liveCount; simp only; split
  · exact DeviceOnly.now s
  · exact DeviceOnly.refl s

theorem wallAdvance_nonneg (k) : 0 ≤ wallAdvance k := by unfold wallAdvance; positivity

theorem liveCount_spec (s : State) (c) : (s.liveCount c).2.pit = s.pit ∧ (s.liveCount c).2.clock = s.clock ∧ s.wallNS ≤ (s.liveCount c).2.wallNS := by
  have wa : ∀ k, 0 ≤ wallAdvance k := by intro k; unfold wallAdvance; positivity
  unfold State.liveCount; simp only; split
  · exact ⟨rfl, rfl, by show s.wallNS ≤ s.wallNS + _; have := wa s.draws; linarith⟩
  · exact ⟨rfl, rfl, le_refl _⟩

theorem DeviceOnly.completeReload (s : State) (c) : DeviceOnly s (s.completeReload c) := by
  unfold State.completeReload
  simp only
  split
  · exact ((((DeviceOnly.now s).trans (DeviceOnly.setChannel _ _ _)).trans (DeviceOnly.removeChannelTimer _ _)).trans
      (DeviceOnly.now _)).trans (DeviceOnly.addTimer _ _ _)
  · exact ((DeviceOnly.now s).trans (DeviceOnly.setChannel _ _ _)).trans (DeviceOnly.removeChannelTimer _ _)

theorem DeviceOnly.writeCount (s : State) (c v) : DeviceOnly s (s.writeCount c v) := by
  unfold State.writeCount; simp only
  split
  · exact DeviceOnly.refl s
  · exact (DeviceOnly.setChannel _ _ _).trans (DeviceOnly.completeReload _ _)
  · exact (DeviceOnly.setChannel _ _ _).trans (DeviceOnly.completeReload _ _)
  · split
    · exact (DeviceOnly.setChannel _ _ _).trans (DeviceOnly.completeReload _ _)
    · exact DeviceOnly.setChannel _ _ _

theorem DeviceOnly.readCount (s : State) (c) : DeviceOnly s (s.readCount c).2 ∧ (s.readCount c).2.clock = s.clock := by
  unfold State.readCount; simp only
  have h : ∀ b : Bool, DeviceOnly s (if b then ((s.pit.channel c).latched, s) else s.liveCount c).2 ∧ (if b then ((s.pit.channel c).latched, s) else s.liveCount c).2.clock = s.clock := by
    intro b; cases b
    · exact ⟨DeviceOnly.liveCount s c, (liveCount_spec s c).2.1⟩
    · exact ⟨DeviceOnly.refl s, rfl⟩
  have h' := h (s.pit.channel c).latchValid
  split
  · exact ⟨h'.1.trans (DeviceOnly.drawWord _), h'.2⟩
  · exact ⟨(h'.1.trans (DeviceOnly.setChannel _ _ _)).trans (DeviceOnly.drawCountByte _ _), h'.2⟩
  · exact ⟨(h'.1.trans (DeviceOnly.setChannel _ _ _)).trans (DeviceOnly.drawCountByte _ _), h'.2⟩
  · split
    · exact ⟨(h'.1.trans (DeviceOnly.setChannel _ _ _)).trans (DeviceOnly.drawCountByte _ _), h'.2⟩
    · exact ⟨(h'.1.trans (DeviceOnly.setChannel _ _ _)).trans (DeviceOnly.drawCountByte _ _), h'.2⟩

theorem DeviceOnly.writeControl (s : State) (v) : DeviceOnly s (s.writeControl v) := by
  unfold State.writeControl
  split
  · exact DeviceOnly.refl s
  · split
    · exact (DeviceOnly.liveCount s _).trans (DeviceOnly.setChannel _ _ _)
    · exact (DeviceOnly.setChannel _ _ _).trans (DeviceOnly.removeChannelTimer _ _)

theorem DeviceOnly.portWrite8 (s : State) (p v) : DeviceOnly s (s.portWrite8 p v) := by
  unfold State.portWrite8
  split
  · exact DeviceOnly.refl s
  · exact DeviceOnly.writeControl _ _
  · exact DeviceOnly.writeCount _ _ _

theorem DeviceOnly.fire (s : State) (c t) : DeviceOnly s (s.fire c t) := by
  unfold State.fire; simp only; split
  · exact (DeviceOnly.setChannel _ _ _).trans (DeviceOnly.addTimer _ _ _)
  · exact DeviceOnly.setChannel _ _ _

theorem DeviceOnly.setVideo (s : State) (v) : DeviceOnly s (s.setVideo v) := ⟨rfl,rfl,rfl,rfl,rfl,rfl,rfl,rfl,rfl,rfl⟩

theorem DeviceOnly.armVerticalSync (s : State) (t) : DeviceOnly s (s.armVerticalSync t) := by
  unfold State.armVerticalSync; split
  · exact DeviceOnly.refl s
  · exact DeviceOnly.addTimer _ _ _

theorem DeviceOnly.scanVideo (s : State) : DeviceOnly s s.scanVideo := (DeviceOnly.setDraws _ _).trans (DeviceOnly.setVideo _ _)

theorem DeviceOnly.verticalSync (s : State) (t) : DeviceOnly s (s.verticalSync t) :=
  (DeviceOnly.scanVideo s).trans (DeviceOnly.armVerticalSync _ _)

theorem DeviceOnly.runCallback (s : State) (t cb) : DeviceOnly s (s.runCallback t cb) := by
  cases cb
  · exact DeviceOnly.fire _ _ _
  · exact DeviceOnly.verticalSync _ _

theorem DeviceOnly.deviceCycle (d : Device) (s : State) : DeviceOnly s (deviceCycle d s) := by
  cases d
  · exact DeviceOnly.refl s
  · exact DeviceOnly.refl s
  · show DeviceOnly s s.videoCycle
    unfold State.videoCycle; split
    · exact DeviceOnly.scanVideo s
    · exact DeviceOnly.refl s

theorem DeviceOnly.bootDevice (d : Device) (s : State) : DeviceOnly s (bootDevice d s) := by
  cases d
  · exact DeviceOnly.refl s
  · exact DeviceOnly.refl s
  · exact ((DeviceOnly.now s).trans (DeviceOnly.setVideo _ _)).trans (DeviceOnly.armVerticalSync _ _)

/-- A relation that a service of each device keeps, reflexive and transitive, holds of the services of all. -/
theorem foldl_devices {R : State → State → Prop} (f : State → Device → State) (refl : ∀ s, R s s)
    (trans : ∀ s t u, R s t → R t u → R s u) (one : ∀ d s, R s (f s d)) (ds : List Device) (s : State) :
    R s (ds.foldl f s) := by
  induction ds generalizing s with
  | nil => exact refl s
  | cons d ds h => exact trans _ _ _ (one d s) (h (f s d))

theorem DeviceOnly.serviceDevices (s : State) : DeviceOnly s s.serviceDevices :=
  foldl_devices _ DeviceOnly.refl (fun _ _ _ => DeviceOnly.trans) (fun d s => DeviceOnly.deviceCycle d s) _ s

theorem DeviceOnly.boot (s : State) : DeviceOnly s s.boot :=
  foldl_devices _ DeviceOnly.refl (fun _ _ _ => DeviceOnly.trans) (fun d s => DeviceOnly.bootDevice d s) _ s

theorem DeviceOnly.fireTimer (s : State) (t tm) : DeviceOnly s (s.fireTimer t tm) := by
  unfold State.fireTimer; split
  · exact (DeviceOnly.removeTimer _ _).trans (DeviceOnly.runCallback _ _ _)
  · exact DeviceOnly.refl s

theorem DeviceOnly.fireDue (t n due) (s : State) : DeviceOnly s (State.fireDue t n due s) := by
  induction n generalizing due s with
  | zero => exact DeviceOnly.refl s
  | succ n advance_ip =>
    unfold State.fireDue; simp only; split
    · exact DeviceOnly.refl s
    · exact ((DeviceOnly.setDraws _ _).trans (DeviceOnly.fireTimer _ _ _)).trans (advance_ip _ _)

theorem DeviceOnly.checkTimers (s : State) : DeviceOnly s s.checkTimers := (DeviceOnly.now s).trans (DeviceOnly.fireDue _ _ _ _)

theorem DeviceOnly.sync (s : State) : DeviceOnly s s.sync := ((DeviceOnly.now s).trans (DeviceOnly.setDraws _ _)).trans (DeviceOnly.setClock _ _)

def tick1 (s : State) : State := s.setClock { s.clock with cycles := s.clock.cycles + 1 }

def tick2 (s : State) : State := if (tick1 s).clock.cycles % (tick1 s).cfg.timeSyncCycles = 0 then (tick1 s).sync else tick1 s

theorem tick_eq (s : State) : s.tick = if (tick2 s).clock.cycles % (tick2 s).cfg.timerCheckCycles = 0 then (tick2 s).checkTimers else tick2 s := rfl

theorem DeviceOnly.tick2 (s : State) : DeviceOnly s (tick2 s) := by
  unfold Machine.tick2
  split
  · exact (DeviceOnly.setClock _ _).trans (DeviceOnly.sync _)
  · exact DeviceOnly.setClock _ _

theorem DeviceOnly.tick (s : State) : DeviceOnly s s.tick := by
  rw [tick_eq]; split
  · exact (DeviceOnly.tick2 s).trans (DeviceOnly.checkTimers _)
  · exact DeviceOnly.tick2 s

theorem DeviceOnly.same {s t : State} (h : DeviceOnly s t) : SameProgramState s t :=
  ⟨h.cfg, State.reg16_congr h.regs, State.sreg_congr h.sregs, h.ip, h.flags, h.ovr, h.rep, h.halted, State.memRead8_congr h.mem h.cfg⟩

theorem DeviceOnly.adv {s t : State} (h : DeviceOnly s t) (len) : SameProgramState (s.setIp (s.ip + BitVec.ofNat 16 len)) (t.advance len) :=
  ⟨h.cfg, fun r => by simp [State.advance]; exact State.reg16_congr h.regs r, fun r => by simp [State.advance]; exact State.sreg_congr h.sregs r, by simp [State.advance, State.nextIp, h.ip], h.flags, h.ovr, h.rep, h.halted, fun a => State.memRead8_congr h.mem h.cfg a⟩

theorem mem_insertTimer (t : Timer) (l : List Timer) : t ∈ insertTimer t l ∧ ∀ u ∈ insertTimer t l, u = t ∨ u ∈ l := by
  induction l with
  | nil => simp [insertTimer]
  | cons u us advance_ip =>
    simp only [insertTimer]
    split_ifs
    · simp
    · exact ⟨by simp, fun x hx => by simp at hx; rcases hx with rfl|h <;> simp [*]⟩
    · refine ⟨by simp [advance_ip.1], fun x hx => ?_⟩
      simp at hx; rcases hx with rfl|h
      · simp
      · rcases advance_ip.2 x h with h|h <;> simp [h]

theorem toNat_field (v : Byte) (a n) : (v.extractLsb' a n).toNat = v.toNat / 2^a % 2^n := by
  simp [BitVec.extractLsb'_toNat, Nat.shiftRight_eq_div_pow]

end Sys2Proof.Machine
end

