-- ==== Sys2Proof/Laws/Clock.lean ====
section
/-! SUPPORT. The clock side: the registry, callbacks, the scan for due timers, what the end of a cycle and boot keep
(60_exceptions.md R381 to R389, R396). -/

namespace Sys2Proof.Machine

/-! ### The registry (R384, R385) -/

/-- A registry keyed by trigger time is strictly rising. -/
theorem rising_pairwise : ∀ l : List Timer, timersRising l = true → l.Pairwise (fun a b => a.trigger < b.trigger)
  | [], _ => List.Pairwise.nil
  | [a], _ => by simp
  | a :: b :: l, h => by
    simp only [timersRising, Bool.and_eq_true, decide_eq_true_eq] at h
    have ih := rising_pairwise (b :: l) h.2
    refine List.Pairwise.cons ?_ ih
    intro x hx
    rcases List.mem_cons.1 hx with rfl | hx
    · exact h.1
    · exact lt_trans h.1 ((List.pairwise_cons.1 ih).1 x hx)

theorem pairwise_rising : ∀ l : List Timer, l.Pairwise (fun a b => a.trigger < b.trigger) → timersRising l = true
  | [], _ => rfl
  | [a], _ => rfl
  | a :: b :: l, h => by
    rw [List.pairwise_cons] at h
    simp only [timersRising, Bool.and_eq_true, decide_eq_true_eq]
    exact ⟨h.1 b (by simp), pairwise_rising _ h.2⟩

/-- Adding a timer leaves every timer with another trigger time. -/
theorem mem_insertTimer_iff (t : Timer) (l : List Timer) (u : Timer) (h : u.trigger ≠ t.trigger) : u ∈ insertTimer t l ↔ u ∈ l := by
  have hne : u ≠ t := fun k => h (by rw [k])
  induction l with
  | nil => simp [insertTimer, hne]
  | cons x xs ih =>
    simp only [insertTimer]
    split_ifs with h1 h2
    · simp [hne]
    · have : u ≠ x := fun k => h (by rw [k, h2])
      simp [hne, this]
    · simp [ih]

/-- A timer added for a channel that has none is the channel's only one. -/
theorem filter_insertTimer (c) (t : Timer) (l : List Timer) (ht : t.callback = .pit c) (h : l.filter (fun tm => decide (tm.callback = .pit c)) = []) :
    (insertTimer t l).filter (fun tm => decide (tm.callback = .pit c)) = [t] := by
  induction l with
  | nil => simp [insertTimer, ht]
  | cons u us ih =>
    have hu : ¬ u.callback = .pit c ∧ us.filter (fun tm => decide (tm.callback = .pit c)) = [] := by
      by_cases k : u.callback = .pit c
      · simp [k] at h
      · simp only [List.filter_cons, k, decide_false] at h; exact ⟨k, by simpa using h⟩
    simp only [insertTimer]
    split_ifs
    · simp only [List.filter_cons, ht, hu.1, hu.2]; simp
    · simp only [List.filter_cons, ht, hu.2]; simp
    · simp only [List.filter_cons, hu.1, ih hu.2]; simp

theorem insertTimer_rising (a : Timer) (l : List Timer) (h : timersRising l = true) : timersRising (insertTimer a l) = true := by
  apply pairwise_rising
  have := rising_pairwise l h
  clear h
  induction l with
  | nil => simp [insertTimer]
  | cons u us ih =>
    rw [List.pairwise_cons] at this
    simp only [insertTimer]
    split_ifs with h1 h2
    · refine List.Pairwise.cons ?_ (List.Pairwise.cons this.1 this.2)
      intro x hx; rcases List.mem_cons.1 hx with rfl|hx
      · exact h1
      · exact lt_trans h1 (this.1 x hx)
    · refine List.Pairwise.cons ?_ this.2
      intro x hx; rw [h2]; exact this.1 x hx
    · refine List.Pairwise.cons ?_ (ih this.2)
      intro x hx
      rcases (mem_insertTimer a us).2 x hx with rfl|hx
      · exact lt_of_le_of_ne (not_lt.1 h1) (Ne.symm h2)
      · exact this.1 x hx

theorem filter_rising (p : Timer → Bool) (l : List Timer) (h : timersRising l = true) : timersRising (l.filter p) = true :=
  pairwise_rising _ ((rising_pairwise l h).filter _)

/-! ### Callbacks (R405, R410) -/

theorem State.channel_setChannel (s : State) (c x : Channel) (v) : (s.setChannel c v).pit.channel x = if x = c then v else s.pit.channel x :=
  Pit.channel_setChannel _ _ _ _

/-- Driving the output, as one record. -/
theorem PitChannel.drive_eq (c : PitChannel) (l : Bool) : c.drive l =
    { c with output := l, outputNotices := if c.output = l then c.outputNotices else c.outputNotices + 1 } := rfl

/-- The output and the notices after terminal count, for each effect of the mode table (R404, R405). -/
theorem PitChannel.terminal_spec (c : PitChannel) (e : TerminalEffect) : c.terminal e =
    { c with
      output := match e with
        | .toggles => !c.output
        | .goesHigh => true
        | .lowPulse => true
      outputNotices := c.outputNotices + match e with
        | .toggles => 1
        | .goesHigh => if c.output then 0 else 1
        | .lowPulse => if c.output then 2 else 1 } := by
  cases e <;> simp only [PitChannel.terminal, PitChannel.drive_eq] <;> cases ho : c.output <;> simp

/-- What firing makes of a channel depends on that channel and the configuration only. -/
theorem fire_channel (s u : State) (c : Channel) (t : Rat) (h : s.pit.channel c = u.pit.channel c) (hc : s.cfg = u.cfg) :
   (s.fire c t).pit.channel c = (u.fire c t).pit.channel c := by
  unfold State.fire
  simp only [h, hc]
  split
  · show (s.setChannel c _).pit.channel c = (u.setChannel c _).pit.channel c
    rw [State.channel_setChannel, State.channel_setChannel, if_pos rfl, if_pos rfl]
  · show (s.setChannel c _).pit.channel c = (u.setChannel c _).pit.channel c
    rw [State.channel_setChannel, State.channel_setChannel, if_pos rfl, if_pos rfl]

/-- Firing leaves the other channels. -/
theorem fire_other (s : State) (c x : Channel) (t : Rat) (h : x ≠ c) : (s.fire c t).pit.channel x = s.pit.channel x := by
  unfold State.fire
  simp only
  split
  · show (s.setChannel c _).pit.channel x = _
    rw [State.channel_setChannel, if_neg h]
  · rw [State.channel_setChannel, if_neg h]

/-- A square-wave channel that fires. -/
theorem fire_squareWave (s : State) (c : Channel) (tf : Rat) (hm : (s.pit.channel c).mode = .squareWave) :
   s.fire c tf = ((s.setChannel c { s.pit.channel c with output := !(s.pit.channel c).output, outputNotices := (s.pit.channel c).outputNotices + 1, lastSet := tf, counter := (s.pit.channel c).reload }).addTimer (tf + s.cfg.pitPeriodNS * (s.pit.channel c).period) (.pit c)).2 := by
  unfold State.fire
  have : (s.pit.channel c).terminal (terminalEffect s.cfg.pitTable (s.pit.channel c).mode) = { s.pit.channel c with output := !(s.pit.channel c).output, outputNotices := (s.pit.channel c).outputNotices + 1 } := by
    rw [hm]; simp [terminalEffect, PitChannel.terminal, PitChannel.drive]
  simp only [this]
  rw [if_pos (by show (s.pit.channel c).mode.periodic = true; rw [hm]; rfl)]; rfl

theorem verticalSync_pit (s : State) (t) : (s.verticalSync t).pit = s.pit := by
  unfold State.verticalSync State.armVerticalSync; split <;> rfl

/-- A callback other than a channel's leaves the channel. -/
theorem runCallback_other (s : State) (t cb) (c : Channel) (h : cb ≠ .pit c) : (s.runCallback t cb).pit.channel c = s.pit.channel c := by
  cases cb with
  | pit x => exact fire_other s x c t (fun k => h (by rw [k]))
  | verticalSync => show (s.verticalSync t).pit.channel c = _; rw [verticalSync_pit]

/-- A timer with trigger time `x` is pending. -/
def Pending (s : State) (x : Rat) : Prop := ∃ tm ∈ s.clock.timers, tm.trigger = x

theorem insertTimer_pending (a : Timer) (l : List Timer) (x : Rat) (h : ∃ tm ∈ l, tm.trigger = x) : ∃ tm ∈ insertTimer a l, tm.trigger = x := by
  obtain ⟨tm, h1, h2⟩ := h
  by_cases k : tm.trigger = a.trigger
  · exact ⟨a, (mem_insertTimer a l).1, by rw [← h2, k]⟩
  · exact ⟨tm, (mem_insertTimer_iff a l tm k).2 h1, h2⟩

/-- No callback removes a pending trigger time. -/
theorem runCallback_pending (s : State) (t cb) (x : Rat) (h : Pending s x) : Pending (s.runCallback t cb) x := by
  cases cb with
  | pit c =>
    show Pending (s.fire c t) x
    unfold State.fire; simp only; split
    · exact insertTimer_pending _ _ _ h
    · exact h
  | verticalSync =>
    show Pending (s.scanVideo.armVerticalSync t) x
    unfold State.armVerticalSync; split
    · exact h
    · exact insertTimer_pending _ _ _ h

/-! ### The scan (R383, R386) -/

theorem fireTimer_pending (s : State) (t tm) (x : Rat) (h : Pending s x) (hx : tm.trigger ≠ x) : Pending (s.fireTimer t tm) x := by
  unfold State.fireTimer; split
  · apply runCallback_pending
    obtain ⟨a, h1, h2⟩ := h
    refine ⟨a, ?_, h2⟩
    show a ∈ eraseTimer tm.trigger s.clock.timers
    simp [eraseTimer, h1, h2, Ne.symm hx]
  · exact h

theorem fireTimer_other (s : State) (t tm) (c : Channel) (h : tm.callback ≠ .pit c) : (s.fireTimer t tm).pit.channel c = s.pit.channel c := by
  unfold State.fireTimer; split
  · rw [runCallback_other _ _ _ _ h]; rfl
  · rfl

/-- A scan leaves a channel that has no due timer. -/
theorem fireDue_other (t : Rat) (c : Channel) : ∀ (n : Nat) (D : List Timer) (s : State), (∀ tm ∈ D, tm.callback ≠ .pit c) →
    (State.fireDue t n D s).pit.channel c = s.pit.channel c
  | 0, _, _, _ => rfl
  | n+1, D, s, h => by
    unfold State.fireDue; simp only
    split
    · rfl
    · rename_i tm he
      rw [fireDue_other t c n _ _ (fun x hx => h x (List.mem_of_mem_eraseIdx hx)), fireTimer_other _ _ _ _ (h _ (List.mem_of_getElem? he))]
      rfl

/-- A trigger time that is not due stays pending. -/
theorem fireDue_pending (t x : Rat) : ∀ (n : Nat) (D : List Timer) (s : State), (∀ tm ∈ D, tm.trigger ≠ x) → Pending s x → Pending (State.fireDue t n D s) x
  | 0, _, _, _, h => h
  | n+1, D, s, hD, h => by
    unfold State.fireDue; simp only
    split
    · exact h
    · rename_i tm he
      exact fireDue_pending t x n _ _ (fun y hy => hD y (List.mem_of_mem_eraseIdx hy)) (fireTimer_pending _ _ _ _ h (hD _ (List.mem_of_getElem? he)))

/-- A channel with one due timer fires at the scan's time, in whatever order the due timers run. -/
theorem fireDue_fires (t : Rat) (c : Channel) (tm : Timer) (hcb : tm.callback = .pit c) : ∀ (n : Nat) (D : List Timer) (s : State), D.length = n → tm ∈ D →
    (∀ x ∈ D, x.callback = .pit c → x = tm) → (D.map (·.trigger)).Nodup → (∀ x ∈ D, Pending s x.trigger) →
    (State.fireDue t n D s).pit.channel c = (s.fire c t).pit.channel c
  | 0, D, s, hl, hm, _, _, _ => by rw [List.length_eq_zero_iff.1 hl] at hm; cases hm
  | n+1, D, s, hl, hm, hu, hn, hp => by
    unfold State.fireDue; simp only
    have hk : Config.freeNat s.draws % D.length < D.length := Nat.mod_lt _ (by omega)
    generalize Config.freeNat s.draws % D.length = k at hk
    rw [List.getElem?_eq_getElem hk]
    simp only
    set y := D[k] with hy
    have hyD : y ∈ D := List.getElem_mem hk
    have hlen : (D.eraseIdx k).length = n := by rw [List.length_eraseIdx, if_pos hk, hl]; rfl
    have hne : ∀ x ∈ D.eraseIdx k, x.trigger ≠ y.trigger := by
      intro x hx e
      obtain ⟨j, hj, hjx⟩ := List.mem_eraseIdx_iff_getElem.1 hx
      obtain ⟨hjk, hjx⟩ := hjx
      have := List.nodup_iff_injective_get.1 hn
      have h2 : (D.map (·.trigger))[j]'(by simpa using hj) = (D.map (·.trigger))[k]'(by simpa using hk) := by
        simp [hjx, ← hy, e]
      have := (List.Nodup.getElem_inj_iff hn).1 h2
      exact hjk this
    by_cases hyt : y = tm
    · rw [fireDue_other]
      · unfold State.fireTimer
        have : isPending y.trigger (s.setDraws (s.draws + 1)).clock.timers = true := by
          obtain ⟨a, h1, h2⟩ := hp y hyD
          simp only [isPending, List.any_eq_true, decide_eq_true_eq]
          exact ⟨a, h1, h2⟩
        rw [if_pos this, hyt, hcb]
        exact fire_channel _ _ c t rfl rfl
      · intro x hx hxc
        have := hu x (List.mem_of_mem_eraseIdx hx) hxc
        exact hne x hx (by rw [this, hyt])
    · have hyc : y.callback ≠ .pit c := fun h => hyt (hu y hyD h)
      have hmem : tm ∈ D.eraseIdx k := by
        obtain ⟨j, hj, e⟩ := List.getElem_of_mem hm
        refine List.mem_eraseIdx_iff_getElem.2 ⟨j, hj, ?_, e⟩
        rintro rfl; exact hyt (by rw [hy, e])
      rw [fireDue_fires t c tm hcb n _ _ hlen hmem (fun x hx => hu x (List.mem_of_mem_eraseIdx hx)) ?_ ?_]
      · refine fire_channel _ _ c t ?_ ?_
        · rw [fireTimer_other _ _ _ _ hyc]; rfl
        · exact (DeviceOnly.fireTimer _ _ _).cfg
      · exact List.Nodup.sublist ((List.eraseIdx_sublist D k).map _) hn
      · intro x hx
        exact fireTimer_pending _ _ _ _ (hp x (List.mem_of_mem_eraseIdx hx)) (Ne.symm (hne x hx))

theorem tick2_spec (s : State) : (tick2 s).clock.cycles = s.clock.cycles + 1 ∧ (tick2 s).cfg = s.cfg ∧ (tick2 s).clock.timers = s.clock.timers ∧ (tick2 s).pit = s.pit := by
  unfold Machine.tick2
  split <;> exact ⟨rfl,rfl,rfl,rfl⟩

/-! ### What the device side keeps of the clock (R388, R389) -/

/-- `t` differs from `s` on the device side only, its host's time is not earlier, it counts as many cycles, and the clock's
invariant is kept. -/
structure ClockKept (s t : State) : Prop where
  dev : DeviceOnly s t
  wall : s.wallNS ≤ t.wallNS
  clk : s.clockOk → t.clockOk
  cyc : t.clock.cycles = s.clock.cycles

theorem ClockKept.refl (s) : ClockKept s s := ⟨.refl s, le_refl _, id, rfl⟩

theorem ClockKept.trans {s t u} (h : ClockKept s t) (k : ClockKept t u) : ClockKept s u := ⟨h.dev.trans k.dev, le_trans h.wall k.wall, k.clk ∘ h.clk, k.cyc.trans h.cyc⟩

theorem ClockKept.now (s : State) : ClockKept s s.now.2 := by
  have := wallAdvance_nonneg s.draws
  refine ⟨.now s, by show s.wallNS ≤ s.wallNS + _; linarith, fun h => ⟨h.1, ?_, h.2.2⟩, rfl⟩
  show s.clock.lastSyncTimeNS ≤ s.wallNS + _
  have := h.2.1; linarith

theorem ClockKept.setDraws (s : State) (n) : ClockKept s (s.setDraws n) := ⟨.setDraws s n, le_refl _, id, rfl⟩

theorem ClockKept.setVideo (s : State) (n) : ClockKept s (s.setVideo n) := ⟨.setVideo s n, le_refl _, id, rfl⟩

theorem ClockKept.setChannel (s : State) (c v) : ClockKept s (s.setChannel c v) := ⟨.setChannel s c v, le_refl _, id, rfl⟩

theorem ClockKept.addTimer (s : State) (t cb) : ClockKept s (s.addTimer t cb).2 := ⟨.addTimer s t cb, le_refl _, fun h => ⟨h.1, h.2.1, h.2.2.1, insertTimer_rising _ _ h.2.2.2⟩, rfl⟩

theorem ClockKept.removeTimer (s : State) (t) : ClockKept s (s.removeTimer t) := ⟨.removeTimer s t, le_refl _, fun h => ⟨h.1, h.2.1, h.2.2.1, filter_rising _ _ h.2.2.2⟩, rfl⟩

theorem ClockKept.removeChannelTimer (s : State) (t) : ClockKept s (s.removeChannelTimer t) := ⟨.removeChannelTimer s t, le_refl _, fun h => ⟨h.1, h.2.1, h.2.2.1, filter_rising _ _ h.2.2.2⟩, rfl⟩

theorem ClockKept.fire (s : State) (c t) : ClockKept s (s.fire c t) := by
  unfold State.fire; simp only; split
  · exact (ClockKept.setChannel _ _ _).trans (ClockKept.addTimer _ _ _)
  · exact ClockKept.setChannel _ _ _

theorem ClockKept.armVerticalSync (s : State) (t) : ClockKept s (s.armVerticalSync t) := by
  unfold State.armVerticalSync; split
  · exact ClockKept.refl s
  · exact ClockKept.addTimer _ _ _

theorem ClockKept.scanVideo (s : State) : ClockKept s s.scanVideo := (ClockKept.setDraws _ _).trans (ClockKept.setVideo _ _)

theorem ClockKept.runCallback (s : State) (t cb) : ClockKept s (s.runCallback t cb) := by
  cases cb
  · exact ClockKept.fire _ _ _
  · exact (ClockKept.scanVideo s).trans (ClockKept.armVerticalSync _ _)

theorem ClockKept.fireTimer (s : State) (t tm) : ClockKept s (s.fireTimer t tm) := by
  unfold State.fireTimer; split
  · exact (ClockKept.removeTimer _ _).trans (ClockKept.runCallback _ _ _)
  · exact ClockKept.refl s

theorem ClockKept.fireDue (t n due) (s : State) : ClockKept s (State.fireDue t n due s) := by
  induction n generalizing due s with
  | zero => exact ClockKept.refl s
  | succ n ih =>
    unfold State.fireDue; simp only; split
    · exact ClockKept.refl s
    · exact ((ClockKept.setDraws _ _).trans (ClockKept.fireTimer _ _ _)).trans (ih _ _)

theorem ClockKept.checkTimers (s : State) : ClockKept s s.checkTimers := (ClockKept.now s).trans (ClockKept.fireDue _ _ _ _)

theorem ClockKept.deviceCycle (d : Device) (s : State) : ClockKept s (deviceCycle d s) := by
  cases d
  · exact ClockKept.refl s
  · exact ClockKept.refl s
  · show ClockKept s s.videoCycle
    unfold State.videoCycle; split
    · exact ClockKept.scanVideo s
    · exact ClockKept.refl s

theorem ClockKept.bootDevice (d : Device) (s : State) : ClockKept s (bootDevice d s) := by
  cases d
  · exact ClockKept.refl s
  · exact ClockKept.refl s
  · exact ((ClockKept.now s).trans (ClockKept.setVideo _ _)).trans (ClockKept.armVerticalSync _ _)

theorem ClockKept.serviceDevices (s : State) : ClockKept s s.serviceDevices :=
  foldl_devices _ ClockKept.refl (fun _ _ _ => ClockKept.trans) (fun d s => ClockKept.deviceCycle d s) _ s

theorem ClockKept.boot (s : State) : ClockKept s s.boot :=
  foldl_devices _ ClockKept.refl (fun _ _ _ => ClockKept.trans) (fun d s => ClockKept.bootDevice d s) _ s

theorem sync_clockOk (s : State) (h : s.clockOk) : s.sync.clockOk := by
  have wn := wallAdvance_nonneg s.draws
  refine ⟨le_refl _, le_refl _, ?_, h.2.2.2⟩
  show 0 ≤ (s.wallNS + wallAdvance s.draws - s.clock.lastSyncTimeNS) / ((s.clock.cycles : Rat) - (s.clock.lastSyncCycles : Rat))
  apply div_nonneg
  · have := h.2.1; linarith
  · have : (s.clock.lastSyncCycles : Rat) ≤ s.clock.cycles := by exact_mod_cast h.1
    linarith

/-- What ends every cycle: one more cycle, no earlier time, a good clock, and the program's side untouched. -/
theorem endCycle_spec (s : State) (h : s.clockOk) : s.endCycle.clockOk ∧ s.endCycle.clock.cycles = s.clock.cycles + 1 ∧ s.wallNS ≤ s.endCycle.wallNS ∧ DeviceOnly s s.endCycle := by
  have h1 : (tick1 s).clockOk := ⟨Nat.le_succ_of_le h.1, h.2⟩
  have h2 : (tick2 s).clockOk ∧ s.wallNS ≤ (tick2 s).wallNS := by
    unfold Machine.tick2; split
    · exact ⟨sync_clockOk _ h1, by show s.wallNS ≤ s.wallNS + _; have := wallAdvance_nonneg (tick1 s).draws; linarith⟩
    · exact ⟨h1, le_refl _⟩
  have h3 : ClockKept (tick2 s) s.tick := by
    rw [tick_eq]; split
    · exact ClockKept.checkTimers _
    · exact ClockKept.refl _
  have h4 := h3.trans (ClockKept.serviceDevices s.tick)
  exact ⟨h4.clk h2.1, by show s.tick.serviceDevices.clock.cycles = _; rw [h4.cyc, (tick2_spec s).1], le_trans h2.2 h4.wall, (DeviceOnly.tick s).trans (DeviceOnly.serviceDevices _)⟩

/-! ### The ports (R401, R402) -/

theorem ClockKept.liveCount (s : State) (c) : ClockKept s (s.liveCount c).2 := by
  unfold State.liveCount; simp only; split
  · exact ClockKept.now s
  · exact ClockKept.refl s

theorem ClockKept.completeReload (s : State) (c) : ClockKept s (s.completeReload c) := by
  unfold State.completeReload; simp only
  split
  · exact ((((ClockKept.now s).trans (ClockKept.setChannel _ _ _)).trans (ClockKept.removeChannelTimer _ _)).trans
      (ClockKept.now _)).trans (ClockKept.addTimer _ _ _)
  · exact ((ClockKept.now s).trans (ClockKept.setChannel _ _ _)).trans (ClockKept.removeChannelTimer _ _)

theorem ClockKept.writeCount (s : State) (c v) : ClockKept s (s.writeCount c v) := by
  unfold State.writeCount; simp only
  split
  · exact ClockKept.refl s
  · exact (ClockKept.setChannel _ _ _).trans (ClockKept.completeReload _ _)
  · exact (ClockKept.setChannel _ _ _).trans (ClockKept.completeReload _ _)
  · split
    · exact (ClockKept.setChannel _ _ _).trans (ClockKept.completeReload _ _)
    · exact ClockKept.setChannel _ _ _

theorem ClockKept.writeControl (s : State) (v) : ClockKept s (s.writeControl v) := by
  unfold State.writeControl
  split
  · exact ClockKept.refl s
  · split
    · exact (ClockKept.liveCount s _).trans (ClockKept.setChannel _ _ _)
    · exact (ClockKept.setChannel _ _ _).trans (ClockKept.removeChannelTimer _ _)

/-- What OUT does to the device side. -/
theorem ClockKept.portWrite8 (s : State) (p v) : ClockKept s (s.portWrite8 p v) := by
  unfold State.portWrite8
  split
  · exact ClockKept.refl s
  · exact ClockKept.writeControl _ _
  · exact ClockKept.writeCount _ _ _

/-- What IN does to the device side. -/
theorem ClockKept.readCount (s : State) (c) : ClockKept s (s.readCount c).2 := by
  unfold State.readCount; simp only
  have h : ∀ b : Bool, ClockKept s (if b then ((s.pit.channel c).latched, s) else s.liveCount c).2 := by
    intro b; cases b
    · exact ClockKept.liveCount s c
    · exact ClockKept.refl s
  have h' := h (s.pit.channel c).latchValid
  split
  · exact h'.trans (ClockKept.setDraws _ _)
  · exact (h'.trans (ClockKept.setChannel _ _ _)).trans (ClockKept.setDraws _ _)
  · exact (h'.trans (ClockKept.setChannel _ _ _)).trans (ClockKept.setDraws _ _)
  · split
    · exact (h'.trans (ClockKept.setChannel _ _ _)).trans (ClockKept.setDraws _ _)
    · exact (h'.trans (ClockKept.setChannel _ _ _)).trans (ClockKept.setDraws _ _)

theorem liveCount_video (s : State) (c) : (s.liveCount c).2.video = s.video := by
  unfold State.liveCount; simp only; split <;> rfl

/-! What the channel operations leave of the video device's output. -/

@[simp] theorem State.now_video (s : State) : s.now.2.video = s.video := rfl
@[simp] theorem State.setChannel_video (s : State) (c v) : (s.setChannel c v).video = s.video := rfl
@[simp] theorem State.addTimer_video (s : State) (t cb) : (s.addTimer t cb).2.video = s.video := rfl
@[simp] theorem State.removeChannelTimer_video (s : State) (c) : (s.removeChannelTimer c).video = s.video := rfl

theorem completeReload_video (s : State) (c) : (s.completeReload c).video = s.video := by
  unfold State.completeReload; simp only
  split
  · rw [State.addTimer_video, State.now_video, State.removeChannelTimer_video, State.setChannel_video, State.now_video]
  · rw [State.removeChannelTimer_video, State.setChannel_video, State.now_video]

/-- No port write reaches the video device (log 24). -/
theorem portWrite8_video (s : State) (p v) : (s.portWrite8 p v).video = s.video := by
  unfold State.portWrite8
  split
  · rfl
  · unfold State.writeControl
    split
    · rfl
    · split
      · exact liveCount_video s _
      · rfl
  · unfold State.writeCount; simp only
    split
    · rfl
    · rw [completeReload_video]; rfl
    · rw [completeReload_video]; rfl
    · split
      · rw [completeReload_video]; rfl
      · rfl

theorem readCount_video (s : State) (c) : (s.readCount c).2.video = s.video := by
  unfold State.readCount; simp only
  have h : ∀ b : Bool, (if b then ((s.pit.channel c).latched, s) else s.liveCount c).2.video = s.video := by
    intro b; cases b
    · exact liveCount_video s c
    · rfl
  have h' := h (s.pit.channel c).latchValid
  split
  · exact h'
  · exact h'
  · exact h'
  · split <;> exact h'

/-- A count read of a channel that does not run takes no reading of the host's clock. -/
theorem liveCount_stopped (s : State) (c) (h : (s.pit.channel c).running = false) : (s.liveCount c).2 = s := by
  unfold State.liveCount; simp [h]

/-- Everything a read of a count port does to the device side, whatever the read/load mode and latched or not (R402, R403). -/
theorem readCount_spec (s : State) (c : Channel) :
    (s.readCount c).2.video = s.video ∧ s.wallNS ≤ (s.readCount c).2.wallNS ∧
    ((s.pit.channel c).latchValid = true ∨ (s.pit.channel c).running = false → (s.readCount c).2.wallNS = s.wallNS) ∧
    (∀ x, x ≠ c → (s.readCount c).2.pit.channel x = s.pit.channel x) ∧
    (s.readCount c).2.pit.channel c =
            { s.pit.channel c with
              readSeq := if (s.pit.channel c).rl = .lsbMsb then !(s.pit.channel c).readSeq else (s.pit.channel c).readSeq
              latchValid := (s.pit.channel c).latchValid && decide ((s.pit.channel c).rl = .latch ∨ ((s.pit.channel c).rl = .lsbMsb ∧ (s.pit.channel c).readSeq = false)) } := by
  have mid : ∃ v u, (if (s.pit.channel c).latchValid then ((s.pit.channel c).latched, s) else s.liveCount c) = (v, u) ∧ u.pit = s.pit ∧ u.video = s.video ∧ s.wallNS ≤ u.wallNS ∧ ((s.pit.channel c).latchValid = true ∨ (s.pit.channel c).running = false → u.wallNS = s.wallNS) := by
    cases hv : (s.pit.channel c).latchValid
    · refine ⟨_, _, rfl, (liveCount_spec s c).1, liveCount_video s c, (liveCount_spec s c).2.2, ?_⟩
      rintro (h|h)
      · cases h
      · show (s.liveCount c).2.wallNS = _; rw [liveCount_stopped s c h]
    · exact ⟨_, _, rfl, rfl, rfl, le_refl _, fun _ => rfl⟩
  obtain ⟨v, u, e, hp, hvi, hw, hw2⟩ := mid
  have key : ∃ z n, (s.readCount c).2 = (u.setChannel c z).setDraws n ∧ z = { s.pit.channel c with
              readSeq := if (s.pit.channel c).rl = .lsbMsb then !(s.pit.channel c).readSeq else (s.pit.channel c).readSeq
              latchValid := (s.pit.channel c).latchValid && decide ((s.pit.channel c).rl = .latch ∨ ((s.pit.channel c).rl = .lsbMsb ∧ (s.pit.channel c).readSeq = false)) } := by
    unfold State.readCount
    simp only
    rw [e]
    cases hr : (s.pit.channel c).rl
    · refine ⟨s.pit.channel c, u.draws + 1, ?_, by clear e hw2; generalize s.pit.channel c = y at hr ⊢; cases y; simp at hr; subst hr; simp⟩
      have : u.setChannel c (s.pit.channel c) = u := by
        unfold State.setChannel; rw [← hp]
        have : u.pit.setChannel c (u.pit.channel c) = u.pit := by cases c <;> rfl
        rw [this]; rfl
      rw [this]; rfl
    · exact ⟨_, _, rfl, by simp⟩
    · exact ⟨_, _, rfl, by simp⟩
    · cases h2 : (s.pit.channel c).readSeq
      · exact ⟨_, _, rfl, by simp⟩
      · exact ⟨_, _, rfl, by simp⟩
  obtain ⟨z, n, e2, hz⟩ := key
  rw [e2]
  refine ⟨hvi, hw, hw2, ?_, ?_⟩
  · intro x hx; show (u.setChannel c z).pit.channel x = _; rw [State.channel_setChannel, if_neg hx, hp]
  · show (u.setChannel c z).pit.channel c = _; rw [State.channel_setChannel, if_pos rfl]; exact hz

/-! ### Boot (R396, R423) -/

theorem bootDevice_pit (d : Device) (s : State) : (bootDevice d s).pit = s.pit := by
  cases d
  · rfl
  · rfl
  · show (State.armVerticalSync _ _).pit = _
    unfold State.armVerticalSync; split <;> rfl

theorem boot_pit (s : State) : s.boot.pit = s.pit :=
  foldl_devices (R := fun a b => b.pit = a.pit) _ (fun _ => rfl) (fun _ _ _ h k => k.trans h) (fun d s => bootDevice_pit d s) _ s

/-- A video device among the devices tells the renderer its size. -/
theorem boot_tells_size : ∀ (ds : List Device) (s : State), (.videoAdapter ∈ ds ∨ s.video.size = some (s.cfg.screenWidth, s.cfg.screenHeight)) →
    (ds.foldl (fun s d => bootDevice d s) s).video.size = some (s.cfg.screenWidth, s.cfg.screenHeight)
  | [], s, h => by simpa using h
  | d :: ds, s, h => by
    have hc := (DeviceOnly.bootDevice d s).cfg
    have := boot_tells_size ds (bootDevice d s) (by
      rw [hc]
      cases d with
      | videoAdapter => right; show (State.armVerticalSync _ _).video.size = _; unfold State.armVerticalSync; split <;> rfl
      | intervalTimer => change _ ∨ s.video.size = _; simpa using h
      | interruptController => change _ ∨ s.video.size = _; simpa using h)
    rw [hc] at this; exact this

end Sys2Proof.Machine
end

