-- ==== Sys2Proof/Laws/Decode.lean ====
section
/-! SUPPORT. The decoder's parts against the encoder's: fields of the addressing byte, register codes, r/m operands, words
(30_encoding.md R92, R104, R105). -/

namespace Sys2Proof

open Machine

theorem modField_modRm (md : BitVec 2) (r m : BitVec 3) : modField (modRmByte md r m) = md := by revert md r m; decide

theorem regField_modRm (md : BitVec 2) (r m : BitVec 3) : regField (modRmByte md r m) = r := by revert md r m; decide

theorem rmField_modRm (md : BitVec 2) (r m : BitVec 3) : rmField (modRmByte md r m) = m := by revert md r m; decide

theorem BaseKind.ofCode_code (b : BaseKind) : BaseKind.ofCode b.code = b := by cases b <;> rfl

theorem Reg16.ofCode_code (b : Reg16) : Reg16.ofCode b.code = b := by cases b <;> rfl

theorem Reg8.ofCode_code (b : Reg8) : Reg8.ofCode b.code = b := by cases b <;> rfl

/-- An addressing byte and its displacement read back. -/
theorem takeModRm_encodeRm (reg : BitVec 3) (e : RM (BitVec 3)) (he : e.wf = true) (rest) : takeModRm (encodeRm reg e ++ rest) = .ok (reg, e, rest) := by
  cases e with
  | reg r => simp [encodeRm, takeModRm, takeByte, takeRm, modField_modRm, regField_modRm, rmField_modRm, bind, Except.bind]
  | mem m =>
    cases m with
    | base b =>
      have : b.code ≠ 6 := by cases b <;> first | decide | exact absurd he (by decide)
      simp [encodeRm, takeModRm, takeByte, takeRm, modField_modRm, regField_modRm, rmField_modRm, bind, Except.bind, BaseKind.ofCode_code]
      split
      · next h => split at h <;> simp_all
      · next h => split at h <;> simp_all
    | direct o => simp [encodeRm, takeModRm, takeByte, takeWord, takeRm, modField_modRm, regField_modRm, rmField_modRm, bind, Except.bind]
    | disp8 b d => simp [encodeRm, takeModRm, takeByte, takeRm, modField_modRm, regField_modRm, rmField_modRm, bind, Except.bind, BaseKind.ofCode_code]
    | disp16 b d => simp [encodeRm, takeModRm, takeByte, takeWord, takeRm, modField_modRm, regField_modRm, rmField_modRm, bind, Except.bind, BaseKind.ofCode_code]

theorem takeE8_encode (reg) (e : RM8) (he : e.wf = true) (rest) : takeE8 (encodeE8 reg e ++ rest) = .ok (reg, e, rest) := by
  unfold takeE8 encodeE8
  rw [takeModRm_encodeRm _ _ (by cases e <;> exact he)]
  cases e <;> simp [bind, Except.bind, RM.map, Reg8.ofCode_code]

theorem takeE16_encode (reg) (e : RM16) (he : e.wf = true) (rest) : takeE16 (encodeE16 reg e ++ rest) = .ok (reg, e, rest) := by
  unfold takeE16 encodeE16
  rw [takeModRm_encodeRm _ _ (by cases e <;> exact he)]
  cases e <;> simp [bind, Except.bind, RM.map, Reg16.ofCode_code]

theorem takeWord_encode (w rest) : takeWord (encodeWord w ++ rest) = .ok (w, rest) := by simp [takeWord, encodeWord]

theorem encodeRm_head (reg : BitVec 3) (e : RM (BitVec 3)) : ∃ m t, encodeRm reg e = m :: t ∧ regField m = reg := by
  cases e with
  | reg r => exact ⟨_, _, rfl, regField_modRm _ _ _⟩
  | mem m => cases m <;> exact ⟨_, _, rfl, regField_modRm _ _ _⟩

end Sys2Proof
end

