-- ==== Sys2Proof/Laws/Flags.lean ====
section
/-! SUPPORT. The flag computations against the arithmetic of the statements (10_state.md R31, 40_arithmetic.md R140, R141), and
FLAGS images (10_state.md R27, R28). -/

namespace Sys2Proof.Machine

/-- `parity8` counts the 1 bits. -/
theorem parity8_eq {n : Nat} (r : BitVec n) : parity8 (r.setWidth 8) = evenOnes r.toNat := by
  unfold parity8 evenOnes
  have h : ∀ i, i < 8 → (r.setWidth 8).getLsbD i = r.toNat.testBit i := by
    intro i hi
    rw [BitVec.getLsbD_setWidth, BitVec.testBit_toNat]; simp [hi]
  rw [h 0 (by omega), h 1 (by omega), h 2 (by omega), h 3 (by omega), h 4 (by omega), h 5 (by omega), h 6 (by omega), h 7 (by omega)]
  have : List.range 8 = [0,1,2,3,4,5,6,7] := rfl
  rw [this]
  simp only [List.filter_cons, List.filter_nil]
  generalize r.toNat.testBit 0 = b0
  generalize r.toNat.testBit 1 = b1
  generalize r.toNat.testBit 2 = b2
  generalize r.toNat.testBit 3 = b3
  generalize r.toNat.testBit 4 = b4
  generalize r.toNat.testBit 5 = b5
  generalize r.toNat.testBit 6 = b6
  generalize r.toNat.testBit 7 = b7
  revert b0 b1 b2 b3 b4 b5 b6 b7
  decide

/-- SF, ZF and PF of a result. -/
theorem szpFlags_spec {n : Nat} (r : BitVec n) (f : Flags) : SzpOf n r.toNat (szpFlags r f) where
  sf := by simp [szpFlags, BitVec.msb_eq_decide]
  zf := by
    simp only [szpFlags]
    rw [Bool.eq_iff_iff]; simp [← BitVec.toNat_inj]
  pf := by simp only [szpFlags]; exact parity8_eq r

theorem SzpOf.congr {w r : Nat} {f g : Flags} (h : SzpOf w r f) (h1 : g.sf = f.sf) (h2 : g.zf = f.zf) (h3 : g.pf = f.pf) :
    SzpOf w r g := ⟨h1 ▸ h.sf, h2 ▸ h.zf, h3 ▸ h.pf⟩

/-- The signed value of a bit vector. -/
theorem signedOf_toNat (n) (a : BitVec n) : signedOf n a.toNat = a.toInt := by
  unfold signedOf; rw [BitVec.toInt_eq_toNat_cond]; split <;> simp

theorem toNat_add_carry {n} (a b : BitVec n) (c : Bool) : (a + b + BitVec.ofNat n c.toNat).toNat = (a.toNat + b.toNat + c.toNat) % 2^n := by
  simp [BitVec.toNat_add, Nat.add_mod]

theorem add_overflow_eq (n x y z : Nat) (hn : n = 8 ∨ n = 16) (hx : x < 2^n) (hy : y < 2^n) (hz : z < 2) :
   ((decide (2^(n-1) ≤ x) ^^ decide (2^(n-1) ≤ (x+y+z)%2^n)) && (decide (2^(n-1) ≤ y) ^^ decide (2^(n-1) ≤ (x+y+z)%2^n)))
    = !fitsSigned n (signedOf n x + signedOf n y + z) := by
  have p1 : (2:Int)^(8-1) = 128 := by norm_num
  have p2 : (2:Int)^(16-1) = 32768 := by norm_num
  have p3 : (2:Int)^8 = 256 := by norm_num
  have p4 : (2:Int)^16 = 65536 := by norm_num
  have q1 : 2^(8-1) = 128 := by norm_num
  have q2 : 2^(16-1) = 32768 := by norm_num
  have q3 : 2^8 = 256 := by norm_num
  have q4 : 2^16 = 65536 := by norm_num
  rcases hn with rfl | rfl <;>
  · simp only [p1,p2,p3,p4,q1,q2,q3,q4, fitsSigned, signedOf] at *
    rw [Bool.eq_iff_iff]
    simp only [Bool.and_eq_true, Bool.xor_iff_ne, ne_eq, decide_eq_decide, Bool.not_eq_true', Bool.and_eq_false_iff, decide_eq_false_iff_not]
    split <;> split <;> omega

theorem msb_xor_and {n} (a b r : BitVec n) : ((a ^^^ r) &&& (b ^^^ r)).msb = ((a.msb ^^ r.msb) && (b.msb ^^ r.msb)) := by
  simp

/-- ADDFLAGS. -/
theorem addFlags_spec {n} (hn : n = 8 ∨ n = 16) (a b : BitVec n) (c : Bool) (f : Flags) :
    AddFlagsOf n a.toNat b.toNat c.toNat (addFlags a b c (a + b + BitVec.ofNat n c.toNat) f) where
  cf := rfl
  ofl := by
    have ha := a.isLt; have hb := b.isLt; have hc := Bool.toNat_lt c
    show ((a ^^^ (a + b + BitVec.ofNat n c.toNat)) &&& (b ^^^ (a + b + BitVec.ofNat n c.toNat))).msb = _
    rw [msb_xor_and]
    simp only [BitVec.msb_eq_decide, toNat_add_carry]
    exact add_overflow_eq n _ _ _ hn ha hb (by simpa using hc)
  af := by
    have hb := BitVec.getLsbD_add_add_bool (i := 4) (show 4 < n by omega) a b c
    have e : BitVec.setWidth n (BitVec.ofBool c) = BitVec.ofNat n c.toNat := by
      apply BitVec.eq_of_toNat_eq; simp
    rw [e] at hb
    simp only [addFlags, BitVec.getLsbD_xor, hb, BitVec.carry]
    cases a.getLsbD 4 <;> cases b.getLsbD 4 <;> simp
  szp := by
    have := szpFlags_spec (a + b + BitVec.ofNat n c.toNat) f
    rw [toNat_add_carry] at this
    exact this.congr rfl rfl rfl

theorem toNat_sub_borrow {n} (a b : BitVec n) (c : Bool) (hn : n = 8 ∨ n = 16) :
    (a - b - BitVec.ofNat n c.toNat).toNat = subMod n a.toNat b.toNat c.toNat := by
  have p3 : (2:Int)^8 = 256 := by norm_num
  have p4 : (2:Int)^16 = 65536 := by norm_num
  have ha := a.isLt; have hb := b.isLt; have hc := Bool.toNat_lt c
  unfold subMod
  rcases hn with rfl | rfl <;>
  · simp only [BitVec.toNat_sub, BitVec.toNat_ofNat, p3, p4]
    omega

theorem sub_overflow_eq (n x y z : Nat) (hn : n = 8 ∨ n = 16) (hx : x < 2^n) (hy : y < 2^n) (hz : z < 2) :
   ((decide (2^(n-1) ≤ x) ^^ decide (2^(n-1) ≤ y)) && (decide (2^(n-1) ≤ x) ^^ decide (2^(n-1) ≤ subMod n x y z)))
    = !fitsSigned n (signedOf n x - signedOf n y - z) := by
  have p1 : (2:Int)^(8-1) = 128 := by norm_num
  have p2 : (2:Int)^(16-1) = 32768 := by norm_num
  have p3 : (2:Int)^8 = 256 := by norm_num
  have p4 : (2:Int)^16 = 65536 := by norm_num
  have q1 : 2^(8-1) = 128 := by norm_num
  have q2 : 2^(16-1) = 32768 := by norm_num
  have q3 : 2^8 = 256 := by norm_num
  have q4 : 2^16 = 65536 := by norm_num
  rcases hn with rfl | rfl <;>
  · simp only [p1,p2,p3,p4,q1,q2,q3,q4, fitsSigned, signedOf, subMod] at *
    rw [Bool.eq_iff_iff]
    simp only [Bool.and_eq_true, Bool.xor_iff_ne, ne_eq, decide_eq_decide, Bool.not_eq_true', Bool.and_eq_false_iff, decide_eq_false_iff_not]
    split <;> split <;> omega

/-- SUBFLAGS. -/
theorem subFlags_spec {n} (hn : n = 8 ∨ n = 16) (a b : BitVec n) (c : Bool) (f : Flags) :
    SubFlagsOf n a.toNat b.toNat c.toNat (subFlags a b c (a - b - BitVec.ofNat n c.toNat) f) where
  cf := rfl
  ofl := by
    have ha := a.isLt; have hb := b.isLt; have hc := Bool.toNat_lt c
    show ((a ^^^ b) &&& (a ^^^ (a - b - BitVec.ofNat n c.toNat))).msb = _
    have : ∀ x y z : BitVec n, ((x ^^^ y) &&& (x ^^^ z)).msb = ((x.msb ^^ y.msb) && (x.msb ^^ z.msb)) := by intros; simp
    rw [this]
    simp only [BitVec.msb_eq_decide, toNat_sub_borrow _ _ _ hn]
    exact sub_overflow_eq n _ _ _ hn ha hb (by simpa using hc)
  af := by
    have ha := a.isLt; have hb := b.isLt; have hc := Bool.toNat_lt c
    show (a ^^^ b ^^^ (a - b - BitVec.ofNat n c.toNat)).getLsbD 4 = _
    have hr := toNat_sub_borrow a b c hn
    generalize hre : a - b - BitVec.ofNat n c.toNat = r at hr ⊢
    have har : a = r + b + BitVec.ofNat n c.toNat := by
      rw [← hre, add_assoc, BitVec.sub_sub, BitVec.sub_add_cancel]
    have e : BitVec.setWidth n (BitVec.ofBool c) = BitVec.ofNat n c.toNat := by
      apply BitVec.eq_of_toNat_eq; simp
    have h4 := BitVec.getLsbD_add_add_bool (i := 4) (show 4 < n by omega) r b c
    rw [e, ← har] at h4
    rw [BitVec.getLsbD_xor, BitVec.getLsbD_xor, h4, BitVec.carry, hr]
    have key : decide (2^4 ≤ subMod n a.toNat b.toNat c.toNat % 2^4 + b.toNat % 2^4 + c.toNat) = decide (a.toNat % 16 < b.toNat % 16 + c.toNat) := by
      have p3 : (2:Int)^8 = 256 := by norm_num
      have p4 : (2:Int)^16 = 65536 := by norm_num
      unfold subMod
      rcases hn with rfl | rfl <;>
      · simp only [p3, p4, decide_eq_decide] at *
        omega
    simp only [ge_iff_le, key] at *
    cases r.getLsbD 4 <;> cases b.getLsbD 4 <;> simp
  szp := by
    have := szpFlags_spec (a - b - BitVec.ofNat n c.toNat) f
    rw [toNat_sub_borrow _ _ _ hn] at this
    exact this.congr rfl rfl rfl

theorem getLsbD_maskIf (b : Bool) (m : Word) (k) : (maskIf b m).getLsbD k = (b && m.getLsbD k) := by
  cases b <;> simp [maskIf]

/-- A FLAGS image carries the named flags, whatever its reserved bits. -/
theorem image_carriesFlags (f : Flags) (free : Word) : carriesFlags (f.image free) f := by
  have r : ∀ k, reservedMask.getLsbD k = (k == 1 || k == 3 || k == 5 || k == 12 || k == 13 || k == 14 || k == 15) := by
    intro k
    by_cases h : k < 16
    · interval_cases k <;> rfl
    · rw [BitVec.getLsbD_of_ge _ _ (by omega)]
      symm; simp; omega
  unfold carriesFlags Flags.image Flags.named
  simp only [BitVec.getLsbD_or, BitVec.getLsbD_and, getLsbD_maskIf, r]
  simp

theorem ofWord_of_carriesFlags {w : Word} {f : Flags} (h : carriesFlags w f) : Flags.ofWord w = f := by
  obtain ⟨h0,h1,h2,h3,h4,h5,h6,h7,h8⟩ := h
  cases f
  simp_all [Flags.ofWord]

theorem carriesFlags_ofWord (w : Word) : carriesFlags w (Flags.ofWord w) := ⟨rfl,rfl,rfl,rfl,rfl,rfl,rfl,rfl,rfl⟩

/-- The low byte of such an image. -/
theorem carries_bit {w : Word} {f : Flags} (h : carriesFlags w f) : (loByte w).getLsbD 0 = f.cf ∧ (loByte w).getLsbD 2 = f.pf ∧ (loByte w).getLsbD 4 = f.af ∧ (loByte w).getLsbD 6 = f.zf ∧ (loByte w).getLsbD 7 = f.sf := by
  obtain ⟨h0,h1,h2,h3,h4,_⟩ := h
  refine ⟨?_, ?_, ?_, ?_, ?_⟩ <;> simp only [loByte, BitVec.getLsbD_extractLsb', h0, h1, h2, h3, h4] <;> simp

end Sys2Proof.Machine
end

