-- ==== Sys2Proof/Laws/Frames.lean ====
section
/-! SUPPORT. Frames: how they compose, and the frame of each update. `FlagsOnly` is the frame of an operation that touches the
status flags and the count of draws alone. -/

namespace Sys2Proof.Machine

theorem SameSystem.refl (s : State) : SameSystem s s := ⟨rfl,rfl,rfl,rfl,rfl,rfl,rfl,rfl,rfl⟩

theorem SameSystem.trans {s t u : State} (h : SameSystem s t) (k : SameSystem t u) : SameSystem s u :=
  ⟨k.cfg.trans h.cfg, k.ovr.trans h.ovr, k.rep.trans h.rep, k.halted.trans h.halted, k.clock.trans h.clock, k.pit.trans h.pit, k.video.trans h.video, k.lastDecode.trans h.lastDecode, k.wallNS.trans h.wallNS⟩

/-- Two neighbouring addresses are different cells. -/
theorem State.Inv.two {s : State} (h : s.Inv) : 2 ≤ s.cfg.memSize := by
  have := h.config
  simp [Config.valid] at this
  omega

/-- `u` differs from `s` at most in the status flags `flags` and the count of draws. -/
structure FlagsOnly (s u : State) (flags : List StatusFlag) : Prop where
  regs : u.regs = s.regs
  sregs : u.sregs = s.sregs
  mem : u.mem = s.mem
  ip : u.ip = s.ip
  status  : ∀ x, x ∉ flags → u.flags.get x = s.flags.get x
  control : u.flags.tf = s.flags.tf ∧ u.flags.ifl = s.flags.ifl ∧ u.flags.df = s.flags.df
  system : SameSystem s u

theorem FlagsOnly.refl (s : State) (fl) : FlagsOnly s s fl := ⟨rfl,rfl,rfl,rfl,fun _ _ => rfl,⟨rfl,rfl,rfl⟩,.refl s⟩

theorem FlagsOnly.trans {s u v : State} {fl} (h : FlagsOnly s u fl) (k : FlagsOnly u v fl) : FlagsOnly s v fl :=
  ⟨k.regs.trans h.regs, k.sregs.trans h.sregs, k.mem.trans h.mem, k.ip.trans h.ip, fun x hx => (k.status x hx).trans (h.status x hx),
   ⟨k.control.1.trans h.control.1, k.control.2.1.trans h.control.2.1, k.control.2.2.trans h.control.2.2⟩, h.system.trans k.system⟩

theorem FlagsOnly.sub {s u : State} {f g} (h : FlagsOnly s u f) (hs : ∀ x ∈ f, x ∈ g) : FlagsOnly s u g :=
  ⟨h.regs,h.sregs,h.mem,h.ip,fun x hx => h.status x (fun k => hx (hs x k)),h.control,h.system⟩

theorem FlagsOnly.setFlags (s : State) (f : Flags) (fl) (h : ∀ x, x ∉ fl → f.get x = s.flags.get x)
   (c : f.tf = s.flags.tf ∧ f.ifl = s.flags.ifl ∧ f.df = s.flags.df) : FlagsOnly s (s.setFlags f) fl :=
  ⟨rfl,rfl,rfl,rfl,h,c,⟨rfl,rfl,rfl,rfl,rfl,rfl,rfl,rfl,rfl⟩⟩

theorem allStatus_mem (x : StatusFlag) : x ∈ allStatus := by cases x <;> decide

theorem FlagsOnly.reg16 {s u fl} (h : FlagsOnly s u fl) (r) : u.reg16 r = s.reg16 r := State.reg16_congr h.regs r

theorem FlagsOnly.reg8 {s u fl} (h : FlagsOnly s u fl) (r) : u.reg8 r = s.reg8 r := State.reg8_congr h.regs r

theorem FlagsOnly.sreg {s u fl} (h : FlagsOnly s u fl) (r) : u.sreg r = s.sreg r := State.sreg_congr h.sregs r

theorem FlagsOnly.memRead8 {s u fl} (h : FlagsOnly s u fl) (r) : u.memRead8 r = s.memRead8 r := State.memRead8_congr h.mem h.system.cfg r

theorem FlagsOnly.seg2abs {s u fl} (h : FlagsOnly s u fl) (r o) : u.seg2abs r o = s.seg2abs r o := State.seg2abs_congr h.sregs h.system.ovr r o

theorem FlagsOnly.eaOff {s u fl} (h : FlagsOnly s u fl) (m) : u.eaOff m = s.eaOff m := by
  cases m with
  | base b => cases b <;> simp [State.eaOff, State.eaBase, h.reg16]
  | direct => rfl
  | disp8 b => cases b <;> simp [State.eaOff, State.eaBase, h.reg16]
  | disp16 b => cases b <;> simp [State.eaOff, State.eaBase, h.reg16]

theorem FlagsOnly.index {s u fl} (h : FlagsOnly s u fl) (a) : u.index a = s.index a := State.index_congr h.system.cfg a

theorem FlagsOnly.draw (s : State) (fl) : FlagsOnly s (s.setDraws (s.draws + 1)) fl := ⟨rfl,rfl,rfl,rfl,fun _ _ => rfl,⟨rfl,rfl,rfl⟩,⟨rfl,rfl,rfl,rfl,rfl,rfl,rfl,rfl,rfl⟩⟩

theorem Flags.get_put (f : Flags) (x y : StatusFlag) (b) (h : y ≠ x) : (f.put x b).get y = f.get y := by
  cases x <;> cases y <;> first | rfl | exact absurd rfl h

theorem Flags.put_control (f : Flags) (x : StatusFlag) (b) : (f.put x b).tf = f.tf ∧ (f.put x b).ifl = f.ifl ∧ (f.put x b).df = f.df := by
  cases x <;> exact ⟨rfl,rfl,rfl⟩

/-- One flag left unspecified. -/
theorem FlagsOnly.freeFlag (s : State) (x) : FlagsOnly s (s.freeFlag x) [x] where
  regs := rfl
  sregs := rfl
  mem := rfl
  ip := rfl
  status y hy := Flags.get_put _ _ _ _ (by simpa using hy)
  control := Flags.put_control _ _ _
  system := ⟨rfl,rfl,rfl,rfl,rfl,rfl,rfl,rfl,rfl⟩

/-- Several flags left unspecified: all others are kept. -/
theorem FlagsOnly.freeFlags (s : State) (xs : List StatusFlag) : FlagsOnly s (s.freeFlags xs) xs := by
  induction xs generalizing s with
  | nil => exact .refl s _
  | cons x xs advance_ip =>
    exact ((FlagsOnly.freeFlag s x).sub (by simp)).trans ((advance_ip (s.freeFlag x)).sub (by intro y; simp; exact .inr))

/-! ### Frames of updates -/

theorem Only.of_same_memory {s t : State} {rs sg fl} (hr : ∀ r, r ∉ rs → t.reg16 r = s.reg16 r) (hs : ∀ r, r ∉ sg → t.sreg r = s.sreg r)
  (hf : ∀ x, x ∉ fl → t.flags.get x = s.flags.get x) (hc : t.flags.tf = s.flags.tf ∧ t.flags.ifl = s.flags.ifl ∧ t.flags.df = s.flags.df)
  (hm : t.mem = s.mem) (hsys : SameSystem s t) : Only s t rs sg fl [] :=
  ⟨hr, hs, hf, hc, fun a _ => State.memRead8_congr hm hsys.cfg a, hsys⟩

theorem Only.refl (s : State) (a b c d) : Only s s a b c d := ⟨fun _ _ => rfl, fun _ _ => rfl, fun _ _ => rfl, ⟨rfl,rfl,rfl⟩, fun _ _ => rfl, .refl s⟩

theorem Only.trans {s t u : State} {rs sg fl st} (h : Only s t rs sg fl st) (k : Only t u rs sg fl st) : Only s u rs sg fl st where
  regs r hr := (k.regs r hr).trans (h.regs r hr)
  segs r hr := (k.segs r hr).trans (h.segs r hr)
  status r hr := (k.status r hr).trans (h.status r hr)
  control := ⟨k.control.1.trans h.control.1, k.control.2.1.trans h.control.2.1, k.control.2.2.trans h.control.2.2⟩
  bytes a ha := (k.bytes a (fun b hb => by rw [State.index_congr h.system.cfg, State.index_congr h.system.cfg]; exact ha b hb)).trans (h.bytes a ha)
  system := h.system.trans k.system

theorem Only.sub {s t : State} {rs sg fl st rs' sg' fl' st'} (h : Only s t rs sg fl st) (h1 : ∀ x ∈ rs, x ∈ rs') (h2 : ∀ x ∈ sg, x ∈ sg') (h3 : ∀ x ∈ fl, x ∈ fl')
   (h4 : ∀ x ∈ st, x ∈ st') : Only s t rs' sg' fl' st' where
  regs r hr := h.regs r (fun k => hr (h1 r k))
  segs r hr := h.segs r (fun k => hr (h2 r k))
  status r hr := h.status r (fun k => hr (h3 r k))
  control := h.control
  bytes a ha := h.bytes a (fun b hb => ha b (h4 b hb))
  system := h.system

theorem FlagsOnly.toOnly {s u : State} {fl} (h : FlagsOnly s u fl) : Only s u [] [] fl [] :=
  Only.of_same_memory (fun r _ => h.reg16 r) (fun r _ => h.sreg r) h.status h.control h.mem h.system

theorem only_setReg16 (s : State) (r v) : Only s (s.setReg16 r v) [r] [] [] [] :=
  Only.of_same_memory (fun q hq => by simp at hq; simp [hq]) (fun q _ => by simp) (fun x _ => by simp) (by simp) (by simp) ⟨by simp, by simp, by simp, by simp, by simp, by simp, by simp, by simp, by simp⟩

theorem only_setReg8 (s : State) (r v) : Only s (s.setReg8 r v) [r.word] [] [] [] := only_setReg16 _ _ _

theorem only_setIp (s : State) (v) : Only s (s.setIp v) [] [] [] [] :=
  Only.of_same_memory (fun q hq => by simp) (fun q _ => by simp) (fun x _ => by simp) (by simp) (by simp) ⟨by simp, by simp, by simp, by simp, by simp, by simp, by simp, by simp, by simp⟩

theorem only_advance (s : State) (v) : Only s (s.advance v) [] [] [] [] := only_setIp s _

theorem only_setSReg (s : State) (r v) : Only s (s.setSReg r v) [] [r] [] [] :=
  Only.of_same_memory (fun q hq => by simp) (fun q hq => by simp at hq; simp [hq]) (fun x _ => by simp) (by simp) (by simp) ⟨by simp, by simp, by simp, by simp, by simp, by simp, by simp, by simp, by simp⟩

theorem only_setFlags (s : State) (f fl) (h : ∀ x, x ∉ fl → f.get x = s.flags.get x)
   (c : f.tf = s.flags.tf ∧ f.ifl = s.flags.ifl ∧ f.df = s.flags.df) : Only s (s.setFlags f) [] [] fl [] := (FlagsOnly.setFlags s f fl h c).toOnly

theorem only_memWrite8 (s : State) (hi : s.memOk) (a v) : Only s (s.memWrite8 a v) [] [] [] [a] :=
  ⟨fun r _ => by simp, fun _ _ => by simp, fun _ _ => rfl, ⟨rfl,rfl,rfl⟩, fun b hb => by
     rw [State.memRead8_memWrite8 _ _ _ _ hi.1, if_neg (hb a (by simp))], ⟨rfl,rfl,rfl,rfl,rfl,rfl,rfl,rfl,rfl⟩⟩

theorem only_memWrite16 (s : State) (hi : s.memOk) (a v) : Only s (s.memWrite16 a v) [] [] [] [a, a+1] :=
  ⟨fun r _ => by simp, fun _ _ => by simp, fun _ _ => rfl, ⟨rfl,rfl,rfl⟩, fun b hb => by
     rw [State.memRead8_memWrite16 _ _ _ _ hi.1, if_neg (hb (a+1) (by simp)), if_neg (hb a (by simp))], ⟨rfl,rfl,rfl,rfl,rfl,rfl,rfl,rfl,rfl⟩⟩

theorem Only.advance {s t : State} {a b c d} (h : Only s t a b c d) (len) : Only s (t.advance len) a b c d :=
  h.trans ((only_advance _ _).sub (by simp) (by simp) (by simp) (by simp))

theorem Only.setIp {s t : State} {a b c d} (h : Only s t a b c d) (len) : Only s (t.setIp len) a b c d :=
  h.trans ((only_setIp _ _).sub (by simp) (by simp) (by simp) (by simp))

theorem advance_ip {s t : State} (h : t.ip = s.ip) (len) : (t.advance len).ip = s.ip + BitVec.ofNat 16 len := by
  simp [State.advance, State.nextIp, h]

theorem FlagsOnly.only {s u : State} {fl} (h : FlagsOnly s u fl) (len) : Only s (u.advance len) [] [] fl [] where
  regs r _ := by simp [State.advance, h.reg16]
  segs r _ := by simp [State.advance, h.sreg]
  status x hx := by simp [State.advance, h.status x hx]
  control := by simp [State.advance, h.control]
  bytes a _ := by rw [← h.memRead8 a]; exact State.memRead8_congr rfl rfl a
  system := h.system.trans ⟨rfl,rfl,rfl,rfl,rfl,rfl,rfl,rfl,rfl⟩

theorem FlagsOnly.only_setReg16 {s u : State} {fl} (h : FlagsOnly s u fl) (r v len) :
    Only s ((u.setReg16 r v).advance len) [r] [] fl [] where
  regs q hq := by simp [State.advance] at *; simp [hq, h.reg16]
  segs q _ := by simp [State.advance, h.sreg]
  status x hx := by simp [State.advance, h.status x hx]
  control := by simp [State.advance, h.control]
  bytes a _ := by
    rw [← h.memRead8 a]; exact State.memRead8_congr (by simp [State.advance]) (by simp [State.advance]) a
  system := h.system.trans ⟨by simp [State.advance], by simp [State.advance], by simp [State.advance], by simp [State.advance], by simp [State.advance], by simp [State.advance], by simp [State.advance], by simp [State.advance], by simp [State.advance]⟩

/-! ### Invariant -/

theorem State.Inv.of_same_clock {s t : State} (hi : s.Inv) (h1 : t.cfg = s.cfg) (h2 : t.memOk) (h3 : t.clock = s.clock) (h4 : t.wallNS = s.wallNS) : t.Inv := by
  refine ⟨by rw [h1]; exact hi.config, h2, ?_⟩
  have := hi.clock
  unfold State.clockOk at *
  rw [h3, h4]; exact this

theorem FlagsOnly.inv {s u : State} {fl} (hi : s.Inv) (h : FlagsOnly s u fl) : u.Inv :=
  State.Inv.of_same_clock hi h.system.cfg ⟨by rw [h.mem]; exact hi.memory.1, by rw [h.mem, h.system.cfg]; exact hi.memory.2⟩ h.system.clock h.system.wallNS

/-! ### Destinations -/

theorem read_dest8 (s : State) (e : RM8) : (s.dest8 e).read s = (s.readE8 e).toNat := by cases e <;> rfl

theorem read_dest16 (s : State) (e : RM16) : (s.dest16 e).read s = (s.readE16 e).toNat := by cases e <;> rfl

theorem width_dest8 (s : State) (e : RM8) : (s.dest8 e).width = 8 := by cases e <;> rfl

theorem width_dest16 (s : State) (e : RM16) : (s.dest16 e).width = 16 := by cases e <;> rfl

theorem read_reg8 (r) (s : State) : (Dest.reg8 r).read s = (s.reg8 r).toNat := rfl

theorem read_reg16 (r) (s : State) : (Dest.reg16 r).read s = (s.reg16 r).toNat := rfl

theorem width_reg8 (r) : (Dest.reg8 r).width = 8 := rfl

theorem width_reg16 (r) : (Dest.reg16 r).width = 16 := rfl

theorem operandAddress_congr (s t : State) (hs : t.sregs = s.sregs) (ho : t.ovr = s.ovr) (m : MemOp) : t.seg2abs m.seg (s.eaOff m) = s.operandAddress m := State.seg2abs_congr hs ho _ _

theorem FlagsOnly.wrote_reg16 {s u : State} {fl} (h : FlagsOnly s u fl) (r v len) :
    Wrote s ((u.setReg16 r v).advance len) (.reg16 r) v.toNat fl len where
  value := ⟨by simp [Dest.read, State.advance], trivial⟩
  frame := h.only_setReg16 r v len
  ip := by simp [State.advance, State.nextIp, h.ip]

theorem FlagsOnly.wrote_reg8 {s u : State} {fl} (h : FlagsOnly s u fl) (r v len) :
    Wrote s ((u.setReg8 r v).advance len) (.reg8 r) v.toNat fl len where
  value := ⟨by simp [Dest.read, State.advance], fun q hq => by simp [State.advance, hq, h.reg8]⟩
  frame := h.only_setReg16 _ _ len
  ip := by simp [State.advance, State.nextIp, h.ip]

theorem FlagsOnly.wrote_byte {s u : State} {fl} (hi : s.Inv) (h : FlagsOnly s u fl) (a v len) :
    Wrote s ((u.memWrite8 a v).advance len) (.byteAt a) v.toNat fl len where
  value := ⟨by
    have : ((u.memWrite8 a v).advance len).memRead8 a = (u.memWrite8 a v).memRead8 a := State.memRead8_congr rfl rfl a
    simp [Dest.read, this, State.memRead8_memWrite8 u a a v (h.mem ▸ hi.memory.1)], trivial⟩
  frame := {
    regs := fun r _ => by simp [State.advance, h.reg16]
    segs := fun r _ => by simp [State.advance, h.sreg]
    status := fun x hx => by simp [State.advance, h.status x hx]
    control := by simp [State.advance, h.control]
    bytes := fun b hb => by
      have : ((u.memWrite8 a v).advance len).memRead8 b = (u.memWrite8 a v).memRead8 b := State.memRead8_congr rfl rfl b
      rw [this, State.memRead8_memWrite8 u a b v (h.mem ▸ hi.memory.1), h.index, h.index, if_neg (hb a (by simp [Dest.stored])), h.memRead8]
    system := h.system.trans ⟨rfl,rfl,rfl,rfl,rfl,rfl,rfl,rfl,rfl⟩ }
  ip := by simp [State.advance, State.nextIp, h.ip]

theorem FlagsOnly.wrote_word {s u : State} {fl} (hi : s.Inv) (h : FlagsOnly s u fl) (a v len) :
    Wrote s ((u.memWrite16 a v).advance len) (.wordAt a) v.toNat fl len where
  value := ⟨by
    have : ((u.memWrite16 a v).advance len).memRead16 a = (u.memWrite16 a v).memRead16 a := State.memRead16_congr rfl rfl a
    simp [Dest.read, this, State.memRead16_memWrite16 u a v (h.mem ▸ hi.memory.1) (h.system.cfg ▸ hi.two)], trivial⟩
  frame := {
    regs := fun r _ => by simp [State.advance, h.reg16]
    segs := fun r _ => by simp [State.advance, h.sreg]
    status := fun x hx => by simp [State.advance, h.status x hx]
    control := by simp [State.advance, h.control]
    bytes := fun b hb => by
      have : ((u.memWrite16 a v).advance len).memRead8 b = (u.memWrite16 a v).memRead8 b := State.memRead8_congr rfl rfl b
      rw [this, State.memRead8_memWrite16 u a b v (h.mem ▸ hi.memory.1), h.index, h.index, h.index, if_neg (hb (a+1) (by simp [Dest.stored])), if_neg (hb a (by simp [Dest.stored])), h.memRead8]
    system := h.system.trans ⟨rfl,rfl,rfl,rfl,rfl,rfl,rfl,rfl,rfl⟩ }
  ip := by simp [State.advance, State.nextIp, h.ip]

/-- Writing an `Eb` operand after the flags: everything it does. -/
theorem FlagsOnly.wrote_e8 {s u : State} {fl} (hi : s.Inv) (h : FlagsOnly s u fl) (e : RM8) (v len) :
    Wrote s ((u.writeE8 e v).advance len) (s.dest8 e) v.toNat fl len := by
  cases e with
  | reg r => exact h.wrote_reg8 r v len
  | mem m =>
    have := h.wrote_byte hi (s.operandAddress m) v len
    simp only [State.writeE8, State.place, State.putPlace8, State.write8_eq, h.seg2abs, h.eaOff]
    exact this

/-- Writing an `Ev` operand after the flags. -/
theorem FlagsOnly.wrote_e16 {s u : State} {fl} (hi : s.Inv) (h : FlagsOnly s u fl) (e : RM16) (v len) :
    Wrote s ((u.writeE16 e v).advance len) (s.dest16 e) v.toNat fl len := by
  cases e with
  | reg r => exact h.wrote_reg16 r v len
  | mem m =>
    have := h.wrote_word hi (s.operandAddress m) v len
    simp only [State.writeE16, State.place, State.putPlace16, State.write16_eq, h.seg2abs, h.eaOff]
    exact this

theorem State.writeE8_flags (u : State) (e : RM8) v : (u.writeE8 e v).flags = u.flags := by
  cases e <;> simp [State.writeE8, State.place, State.putPlace8]

theorem State.writeE16_flags (u : State) (e : RM16) v : (u.writeE16 e v).flags = u.flags := by
  cases e <;> simp [State.writeE16, State.place, State.putPlace16]

/-- Flags written after the destination. -/
theorem Wrote.then_mid {s t u : State} {d v f1 f2} (h : Wrote s (t.advance len) d v f1 len) (k : FlagsOnly t u f2) (h1 : ∀ x ∈ f1, x ∈ f2) : Wrote s (u.advance len) d v f2 len where
  value := by
    have rd : ∀ d : Dest, d.read (u.advance len) = d.read (t.advance len) := by
      intro d; cases d <;> simp only [Dest.read]
      · simp [State.advance, k.reg8]
      · simp [State.advance, k.reg16]
      · congr 1; exact State.memRead8_congr k.mem k.system.cfg _
      · congr 1; exact State.memRead16_congr k.mem k.system.cfg _
    refine ⟨(rd d).trans h.value.1, ?_⟩
    have := h.value.2
    cases d <;> simp only at this ⊢
    intro q hq
    rw [← this q hq]; simp [State.advance, k.reg8]
  frame := by
    have h' := h.frame
    constructor
    · intro r hr; rw [← h'.regs r hr]; simp [State.advance, k.reg16]
    · intro r hr; rw [← h'.segs r hr]; simp [State.advance, k.sreg]
    · intro x hx; rw [← h'.status x (fun q => hx (h1 x q))]; exact k.status x hx
    · have := h'.control; have := k.control; simp [State.advance] at *; simp [*]
    · intro a ha; rw [← h'.bytes a ha]; exact State.memRead8_congr k.mem k.system.cfg _
    · exact h'.system.trans ⟨k.system.cfg, k.system.ovr, k.system.rep, k.system.halted, k.system.clock, k.system.pit, k.system.video, k.system.lastDecode, k.system.wallNS⟩
  ip := by
    have := h.ip; simp only [State.advance, State.nextIp, State.setIp_ip] at *; rw [k.ip]; exact this

end Sys2Proof.Machine
end

