-- ==== Sys2Proof/Laws/Operations.lean ====
section
/-! SUPPORT. The shared arithmetic operations: once each, everything they do (40_arithmetic.md R140, R141, R143; 41_logic_shift.md
R180, R186). -/

namespace Sys2Proof.Machine

theorem addFlags_control {n} (a b : BitVec n) (c r f) : (addFlags a b c r f).tf = f.tf ∧ (addFlags a b c r f).ifl = f.ifl ∧ (addFlags a b c r f).df = f.df := ⟨rfl,rfl,rfl⟩

theorem subFlags_control {n} (a b : BitVec n) (c r f) : (subFlags a b c r f).tf = f.tf ∧ (subFlags a b c r f).ifl = f.ifl ∧ (subFlags a b c r f).df = f.df := ⟨rfl,rfl,rfl⟩

theorem addWith_spec (s : State) (c : Bool) : ∀ n, n = 8 ∨ n = 16 → ∀ a b : BitVec n, FlagsOnly s (addWith c n a b s).2 allStatus ∧
    (addWith c n a b s).1.toNat = (a.toNat + b.toNat + c.toNat) % 2^n ∧ AddFlagsOf n a.toNat b.toNat c.toNat (addWith c n a b s).2.flags := by
  intro n hn a b
  exact ⟨FlagsOnly.setFlags _ _ _ (fun x hx => absurd (allStatus_mem x) hx) (addFlags_control ..), toNat_add_carry .., addFlags_spec hn a b c _⟩

theorem subWith_spec (s : State) (c : Bool) : ∀ n, n = 8 ∨ n = 16 → ∀ a b : BitVec n, FlagsOnly s (subWith c n a b s).2 allStatus ∧
    (subWith c n a b s).1.toNat = subMod n a.toNat b.toNat c.toNat ∧ SubFlagsOf n a.toNat b.toNat c.toNat (subWith c n a b s).2.flags := by
  intro n hn a b
  exact ⟨FlagsOnly.setFlags _ _ _ (fun x hx => absurd (allStatus_mem x) hx) (subFlags_control ..), toNat_sub_borrow _ _ _ hn, subFlags_spec hn a b c _⟩

theorem logicResult_spec (s : State) {n} (r : BitVec n) : FlagsOnly s (s.logicResult r).2 allStatus ∧ (s.logicResult r).2.flags.cf = false ∧ (s.logicResult r).2.flags.ofl = false ∧ SzpOf n r.toNat (s.logicResult r).2.flags := by
  have m1 := FlagsOnly.setFlags s (logicFlags r s.flags) allStatus (fun x hx => absurd (allStatus_mem x) hx) (by simp [logicFlags, szpFlags])
  have m2 := FlagsOnly.freeFlags (s.setFlags (logicFlags r s.flags)) [.af]
  refine ⟨m1.trans (m2.sub (fun x _ => allStatus_mem x)), m2.status .cf (by decide), m2.status .ofl (by decide), ?_⟩
  exact (szpFlags_spec r s.flags).congr (m2.status .sf (by decide)) (m2.status .zf (by decide)) (m2.status .pf (by decide))

theorem divideFlags_spec (s : State) : FlagsOnly s s.divideFlags allStatus := (FlagsOnly.freeFlags s _).sub (fun x _ => allStatus_mem x)

theorem toNat_dxAx (s : State) : s.dxAx.toNat = (s.reg16 .dx).toNat * 65536 + (s.reg16 .ax).toNat := by
  have := (s.reg16 .ax).isLt
  simp only [State.dxAx, BitVec.toNat_append]
  rw [← Nat.shiftLeft_add_eq_or_of_lt this, Nat.shiftLeft_eq]

/-- A two-operand operation that gives `R` and flags with `P` at both widths does so in every form. -/
theorem applyAlu_spec (op : AluOp) (s : State) (hi : s.Inv) (P : Nat → Nat → Nat → Flags → Prop) (R : Nat → Nat → Nat → Nat)
   (hop : ∀ n, n = 8 ∨ n = 16 → ∀ a b : BitVec n, FlagsOnly s (op n a b s).2 allStatus ∧ (op n a b s).1.toNat = R n a.toNat b.toNat ∧ P n a.toNat b.toNat (op n a b s).2.flags)
   (f : AluForm) :
   Wrote s ((applyAlu op f s).advance f.len) (f.dest s) (R (f.dest s).width ((f.dest s).read s) (f.src s)) allStatus f.len ∧
   P (f.dest s).width ((f.dest s).read s) (f.src s) ((applyAlu op f s).advance f.len).flags := by
  have fe8 : ∀ (u : State) (e : RM8) v len, ((u.writeE8 e v).advance len).flags = u.flags := by
    intro u e v len; cases e <;> simp [State.writeE8, State.place, State.putPlace8, State.advance]
  have fe16 : ∀ (u : State) (e : RM16) v len, ((u.writeE16 e v).advance len).flags = u.flags := by
    intro u e v len; cases e <;> simp [State.writeE16, State.place, State.putPlace16, State.advance]
  have fr8 : ∀ (u : State) (e : Reg8) v len, ((u.setReg8 e v).advance len).flags = u.flags := by
    intro u e v len; simp [State.advance]
  have fr16 : ∀ (u : State) (e : Reg16) v len, ((u.setReg16 e v).advance len).flags = u.flags := by
    intro u e v len; simp [State.advance]
  cases f <;> simp only [applyAlu, AluForm.dest, AluForm.src, width_dest8, width_dest16, read_dest8, read_dest16, fe8, fe16, fr8, fr16, read_reg8, read_reg16, width_reg8, width_reg16]
  case ebGb e g => obtain ⟨h1,h2,h3⟩ := hop 8 (.inl rfl) (s.readE8 e) (s.reg8 g); rw [← h2]; exact ⟨h1.wrote_e8 hi _ _ _, h3⟩
  case evGv e g => obtain ⟨h1,h2,h3⟩ := hop 16 (.inr rfl) (s.readE16 e) (s.reg16 g); rw [← h2]; exact ⟨h1.wrote_e16 hi _ _ _, h3⟩
  case gbEb g e => obtain ⟨h1,h2,h3⟩ := hop 8 (.inl rfl) (s.reg8 g) (s.readE8 e); rw [← h2]; exact ⟨h1.wrote_reg8 _ _ _, h3⟩
  case gvEv g e => obtain ⟨h1,h2,h3⟩ := hop 16 (.inr rfl) (s.reg16 g) (s.readE16 e); rw [← h2]; exact ⟨h1.wrote_reg16 _ _ _, h3⟩
  case alIb i => obtain ⟨h1,h2,h3⟩ := hop 8 (.inl rfl) (s.reg8 .al) i; rw [← h2]; exact ⟨h1.wrote_reg8 _ _ _, h3⟩
  case axIv i => obtain ⟨h1,h2,h3⟩ := hop 16 (.inr rfl) (s.reg16 .ax) i; rw [← h2]; exact ⟨h1.wrote_reg16 _ _ _, h3⟩
  case ebIb e i => obtain ⟨h1,h2,h3⟩ := hop 8 (.inl rfl) (s.readE8 e) i; rw [← h2]; exact ⟨h1.wrote_e8 hi _ _ _, h3⟩
  case evIv e i => obtain ⟨h1,h2,h3⟩ := hop 16 (.inr rfl) (s.readE16 e) i; rw [← h2]; exact ⟨h1.wrote_e16 hi _ _ _, h3⟩
  case ebIbAlt e i => obtain ⟨h1,h2,h3⟩ := hop 8 (.inl rfl) (s.readE8 e) i; rw [← h2]; exact ⟨h1.wrote_e8 hi _ _ _, h3⟩
  case evIbSx e i => obtain ⟨h1,h2,h3⟩ := hop 16 (.inr rfl) (s.readE16 e) (i.signExtend 16); rw [← h2]; exact ⟨h1.wrote_e16 hi _ _ _, h3⟩

theorem compareAlu_spec (op : AluOp) (s : State) (P : Nat → Nat → Nat → Flags → Prop)
   (hop : ∀ n, n = 8 ∨ n = 16 → ∀ a b : BitVec n, FlagsOnly s (op n a b s).2 allStatus ∧ P n a.toNat b.toNat (op n a b s).2.flags)
   (f : AluForm) :
   Only s ((compareAlu op f s).advance f.len) [] [] allStatus [] ∧ ((compareAlu op f s).advance f.len).ip = s.ip + BitVec.ofNat 16 f.len ∧
   P (f.dest s).width ((f.dest s).read s) (f.src s) ((compareAlu op f s).advance f.len).flags := by
  cases f <;> simp only [compareAlu, AluForm.dest, AluForm.src, width_dest8, width_dest16, read_dest8, read_dest16, read_reg8, read_reg16, width_reg8, width_reg16]
  case ebGb e g => obtain ⟨h1,h3⟩ := hop 8 (.inl rfl) (s.readE8 e) (s.reg8 g);  exact ⟨h1.only _, by simp [State.advance, State.nextIp, h1.ip], h3⟩
  case evGv e g => obtain ⟨h1,h3⟩ := hop 16 (.inr rfl) (s.readE16 e) (s.reg16 g);  exact ⟨h1.only _, by simp [State.advance, State.nextIp, h1.ip], h3⟩
  case gbEb g e => obtain ⟨h1,h3⟩ := hop 8 (.inl rfl) (s.reg8 g) (s.readE8 e);  exact ⟨h1.only _, by simp [State.advance, State.nextIp, h1.ip], h3⟩
  case gvEv g e => obtain ⟨h1,h3⟩ := hop 16 (.inr rfl) (s.reg16 g) (s.readE16 e);  exact ⟨h1.only _, by simp [State.advance, State.nextIp, h1.ip], h3⟩
  case alIb i => obtain ⟨h1,h3⟩ := hop 8 (.inl rfl) (s.reg8 .al) i;  exact ⟨h1.only _, by simp [State.advance, State.nextIp, h1.ip], h3⟩
  case axIv i => obtain ⟨h1,h3⟩ := hop 16 (.inr rfl) (s.reg16 .ax) i;  exact ⟨h1.only _, by simp [State.advance, State.nextIp, h1.ip], h3⟩
  case ebIb e i => obtain ⟨h1,h3⟩ := hop 8 (.inl rfl) (s.readE8 e) i;  exact ⟨h1.only _, by simp [State.advance, State.nextIp, h1.ip], h3⟩
  case evIv e i => obtain ⟨h1,h3⟩ := hop 16 (.inr rfl) (s.readE16 e) i;  exact ⟨h1.only _, by simp [State.advance, State.nextIp, h1.ip], h3⟩
  case ebIbAlt e i => obtain ⟨h1,h3⟩ := hop 8 (.inl rfl) (s.readE8 e) i;  exact ⟨h1.only _, by simp [State.advance, State.nextIp, h1.ip], h3⟩
  case evIbSx e i => obtain ⟨h1,h3⟩ := hop 16 (.inr rfl) (s.readE16 e) (i.signExtend 16);  exact ⟨h1.only _, by simp [State.advance, State.nextIp, h1.ip], h3⟩

theorem applyUnary_spec (op : UnaryOp) (s : State) (hi : s.Inv) (fl) (P : Nat → Nat → Flags → Prop) (R : Nat → Nat → Nat)
   (hop : ∀ n, n = 8 ∨ n = 16 → ∀ a : BitVec n, FlagsOnly s (op n a s).2 fl ∧ (op n a s).1.toNat = R n a.toNat ∧ P n a.toNat (op n a s).2.flags)
   (f : UnForm) :
   Wrote s ((applyUnary op f s).advance f.len) (f.dest s) (R (f.dest s).width ((f.dest s).read s)) fl f.len ∧
   P (f.dest s).width ((f.dest s).read s) ((applyUnary op f s).advance f.len).flags := by
  have fe8 : ∀ (u : State) (e : RM8) v len, ((u.writeE8 e v).advance len).flags = u.flags := by
    intro u e v len; cases e <;> simp [State.writeE8, State.place, State.putPlace8, State.advance]
  have fe16 : ∀ (u : State) (e : RM16) v len, ((u.writeE16 e v).advance len).flags = u.flags := by
    intro u e v len; cases e <;> simp [State.writeE16, State.place, State.putPlace16, State.advance]
  cases f <;> simp only [applyUnary, UnForm.dest, width_dest8, width_dest16, read_dest8, read_dest16, fe8, fe16]
  case eb e => obtain ⟨h1,h2,h3⟩ := hop 8 (.inl rfl) (s.readE8 e); rw [← h2]; exact ⟨h1.wrote_e8 hi _ _ _, h3⟩
  case ev e => obtain ⟨h1,h2,h3⟩ := hop 16 (.inr rfl) (s.readE16 e); rw [← h2]; exact ⟨h1.wrote_e16 hi _ _ _, h3⟩

theorem applyIncDec_spec (op : UnaryOp) (s : State) (hi : s.Inv) (fl) (P : Nat → Nat → Flags → Prop) (R : Nat → Nat → Nat)
   (hop : ∀ n, n = 8 ∨ n = 16 → ∀ a : BitVec n, FlagsOnly s (op n a s).2 fl ∧ (op n a s).1.toNat = R n a.toNat ∧ P n a.toNat (op n a s).2.flags)
   (f : IncForm) :
   Wrote s ((applyIncDec op f s).advance f.len) (f.dest s) (R (f.dest s).width ((f.dest s).read s)) fl f.len ∧
   P (f.dest s).width ((f.dest s).read s) ((applyIncDec op f s).advance f.len).flags := by
  have fe8 : ∀ (u : State) (e : RM8) v len, ((u.writeE8 e v).advance len).flags = u.flags := by
    intro u e v len; cases e <;> simp [State.writeE8, State.place, State.putPlace8, State.advance]
  have fe16 : ∀ (u : State) (e : RM16) v len, ((u.writeE16 e v).advance len).flags = u.flags := by
    intro u e v len; cases e <;> simp [State.writeE16, State.place, State.putPlace16, State.advance]
  have fr16 : ∀ (u : State) (e : Reg16) v len, ((u.setReg16 e v).advance len).flags = u.flags := by
    intro u e v len; simp [State.advance]
  cases f <;> simp only [applyIncDec, IncForm.dest, width_dest8, width_dest16, read_dest8, read_dest16, fe8, fe16, fr16, read_reg16, width_reg16]
  case r16 e => obtain ⟨h1,h2,h3⟩ := hop 16 (.inr rfl) (s.reg16 e); rw [← h2]; exact ⟨h1.wrote_reg16 _ _ _, h3⟩
  case eb e => obtain ⟨h1,h2,h3⟩ := hop 8 (.inl rfl) (s.readE8 e); rw [← h2]; exact ⟨h1.wrote_e8 hi _ _ _, h3⟩
  case ev e => obtain ⟨h1,h2,h3⟩ := hop 16 (.inr rfl) (s.readE16 e); rw [← h2]; exact ⟨h1.wrote_e16 hi _ _ _, h3⟩

/-! ### Shifts and rotates -/

theorem repeatStep_succ (st : ShiftStep) {n} (k) (x : BitVec n × Bool) :
    repeatStep st (k+1) x = st n (repeatStep st k x).1 (repeatStep st k x).2 := by
  induction k generalizing x with
  | zero => rfl
  | succ k advance_ip => rw [repeatStep, advance_ip]; rfl

/-- The status flags an operation of this family writes. -/
def ShiftOp.flags (op : ShiftOp) : List StatusFlag := if op.isShift then allStatus else [.cf, .ofl]

theorem shiftFlags_spec (u : State) (op : ShiftOp) {n} (cnt : Nat) (v0 v : BitVec n) (cf : Bool) (hc : 1 ≤ cnt) :
    FlagsOnly u (u.shiftFlags op cnt v0 v cf) (ShiftOp.flags op) ∧ (u.shiftFlags op cnt v0 v cf).flags.cf = cf ∧
    (cnt = 1 → (u.shiftFlags op cnt v0 v cf).flags.ofl = op.overflow n v0 v cf) ∧
    (op.isShift = true → SzpOf n v.toNat (u.shiftFlags op cnt v0 v cf).flags) := by
  have m1 : FlagsOnly u (u.setFlags { u.flags with cf := cf }) [.cf, .ofl] := FlagsOnly.setFlags _ _ _ (by intro x hx; cases x <;> first | rfl | exact absurd hx (by decide)) ⟨rfl,rfl,rfl⟩
  let s1 := u.setFlags { u.flags with cf := cf }
  let s2 := if cnt = 1 then s1.setFlags { s1.flags with ofl := op.overflow n v0 v cf } else s1.freeFlags [.ofl]
  have m2 : FlagsOnly u s2 [.cf, .ofl] ∧ s2.flags.cf = cf ∧ (cnt = 1 → s2.flags.ofl = op.overflow n v0 v cf) := by
    by_cases h : cnt = 1
    · have : s2 = s1.setFlags { s1.flags with ofl := op.overflow n v0 v cf } := by simp [s2, h]
      rw [this]
      refine ⟨m1.trans (FlagsOnly.setFlags _ _ _ (by intro x hx; cases x <;> first | rfl | exact absurd hx (by decide)) ⟨rfl,rfl,rfl⟩), rfl, fun _ => rfl⟩
    · have : s2 = s1.freeFlags [.ofl] := by simp [s2, h]
      rw [this]
      have m := FlagsOnly.freeFlags s1 [.ofl]
      exact ⟨m1.trans (m.sub (by simp)), m.status .cf (by decide), fun k => absurd k h⟩
  have e : u.shiftFlags op cnt v0 v cf = if op.isShift then (s2.setFlags (szpFlags v s2.flags)).freeFlags [.af] else s2 := rfl
  by_cases hs : op.isShift = true
  · rw [e, if_pos hs]
    have m3 := FlagsOnly.setFlags s2 (szpFlags v s2.flags) allStatus (fun x hx => absurd (allStatus_mem x) hx) (by simp [szpFlags])
    have m4 := FlagsOnly.freeFlags (s2.setFlags (szpFlags v s2.flags)) [.af]
    refine ⟨?_, ?_, ?_, ?_⟩
    · unfold ShiftOp.flags; rw [if_pos hs]
      exact ((m2.1.sub (fun x _ => allStatus_mem x)).trans m3).trans (m4.sub (fun x _ => allStatus_mem x))
    · exact (m4.status .cf (by decide)).trans m2.2.1
    · intro h; exact (m4.status .ofl (by decide)).trans (m2.2.2 h)
    · intro _; exact (szpFlags_spec v s2.flags).congr (m4.status .sf (by decide)) (m4.status .zf (by decide)) (m4.status .pf (by decide))
  · rw [e, if_neg hs]
    refine ⟨?_, m2.2.1, m2.2.2, fun h => absurd h hs⟩
    unfold ShiftOp.flags; rw [if_neg hs]; exact m2.1

/-- The four forms, for a count of 1 or more. -/
theorem applyShift_spec (op : ShiftOp) (f : ShiftForm) (s : State) (hi : s.Inv) (hc : 1 ≤ f.count s)
   (P : Nat → Nat → Nat → Nat → Bool → Prop)
   (hP : ∀ n, n = 8 ∨ n = 16 → ∀ v0 : BitVec n, P n v0.toNat (f.count s) (repeatStep op.step (f.count s) (v0, s.flags.cf)).1.toNat (repeatStep op.step (f.count s) (v0, s.flags.cf)).2)
   (Q : Nat → Nat → Nat → Bool → Bool → Prop)
   (hQ : ∀ n, n = 8 ∨ n = 16 → ∀ (v0 v : BitVec n) cf, Q n v0.toNat v.toNat cf (op.overflow n v0 v cf)) :
   ∃ v c, P (f.dest s).width ((f.dest s).read s) (f.count s) v c ∧
    Wrote s ((applyShift op f s).advance f.len) (f.dest s) v (ShiftOp.flags op) f.len ∧
    ((applyShift op f s).advance f.len).flags.cf = c ∧
    (f.count s = 1 → Q (f.dest s).width ((f.dest s).read s) v c ((applyShift op f s).advance f.len).flags.ofl) ∧
    (op.isShift = true → SzpOf (f.dest s).width v ((applyShift op f s).advance f.len).flags) := by
  have g8 : ∀ e cnt len, 1 ≤ cnt → ∀ v0, v0 = s.readE8 e → let r := repeatStep op.step cnt (v0, s.flags.cf)
     Wrote s ((applyShift8 op e cnt s).advance len) (s.dest8 e) r.1.toNat (ShiftOp.flags op) len ∧ ((applyShift8 op e cnt s).advance len).flags.cf = r.2 ∧
     (cnt = 1 → ((applyShift8 op e cnt s).advance len).flags.ofl = op.overflow 8 v0 r.1 r.2) ∧
     (op.isShift = true → SzpOf 8 r.1.toNat ((applyShift8 op e cnt s).advance len).flags) := by
    intro e cnt len h v0 hv r
    have e1 : applyShift8 op e cnt s = (s.writeE8 e r.1).shiftFlags op cnt v0 r.1 r.2 := by
      unfold applyShift8; rw [if_neg (by omega), ← hv]
    rw [e1]
    obtain ⟨m1,m2,m3,m4⟩ := shiftFlags_spec (s.writeE8 e r.1) op cnt v0 r.1 r.2 h
    have w := (FlagsOnly.refl s []).wrote_e8 hi e r.1 len
    exact ⟨w.then_mid m1 (by simp), m2, m3, m4⟩
  have g16 : ∀ e cnt len, 1 ≤ cnt → ∀ v0, v0 = s.readE16 e → let r := repeatStep op.step cnt (v0, s.flags.cf)
     Wrote s ((applyShift16 op e cnt s).advance len) (s.dest16 e) r.1.toNat (ShiftOp.flags op) len ∧ ((applyShift16 op e cnt s).advance len).flags.cf = r.2 ∧
     (cnt = 1 → ((applyShift16 op e cnt s).advance len).flags.ofl = op.overflow 16 v0 r.1 r.2) ∧
     (op.isShift = true → SzpOf 16 r.1.toNat ((applyShift16 op e cnt s).advance len).flags) := by
    intro e cnt len h v0 hv r
    have e1 : applyShift16 op e cnt s = (s.writeE16 e r.1).shiftFlags op cnt v0 r.1 r.2 := by
      unfold applyShift16; rw [if_neg (by omega), ← hv]
    rw [e1]
    obtain ⟨m1,m2,m3,m4⟩ := shiftFlags_spec (s.writeE16 e r.1) op cnt v0 r.1 r.2 h
    have w := (FlagsOnly.refl s []).wrote_e16 hi e r.1 len
    exact ⟨w.then_mid m1 (by simp), m2, m3, m4⟩
  cases f <;> simp only [ShiftForm.dest, width_dest8, width_dest16, read_dest8, read_dest16, ShiftForm.count, applyShift] at *
  case eb1 e =>
    obtain ⟨h1,h2,h3,h4⟩ := g8 e 1 (ShiftForm.eb1 e).len (le_refl _) _ rfl
    exact ⟨_, _, hP 8 (.inl rfl) _, h1, h2, fun _ => by rw [h3 rfl]; exact hQ 8 (.inl rfl) _ _ _, h4⟩
  case ev1 e =>
    obtain ⟨h1,h2,h3,h4⟩ := g16 e 1 (ShiftForm.ev1 e).len (le_refl _) _ rfl
    exact ⟨_, _, hP 16 (.inr rfl) _, h1, h2, fun _ => by rw [h3 rfl]; exact hQ 16 (.inr rfl) _ _ _, h4⟩
  case ebCl e =>
    obtain ⟨h1,h2,h3,h4⟩ := g8 e (s.reg8 .cl).toNat (ShiftForm.ebCl e).len hc _ rfl
    exact ⟨_, _, hP 8 (.inl rfl) _, h1, h2, fun h => by rw [h3 h]; exact hQ 8 (.inl rfl) _ _ _, h4⟩
  case evCl e =>
    obtain ⟨h1,h2,h3,h4⟩ := g16 e (s.reg8 .cl).toNat (ShiftForm.evCl e).len hc _ rfl
    exact ⟨_, _, hP 16 (.inr rfl) _, h1, h2, fun h => by rw [h3 h]; exact hQ 16 (.inr rfl) _ _ _, h4⟩

theorem msb_eq_testBit {n} (v : BitVec n) (hn : 0 < n) : v.msb = v.toNat.testBit (n-1) := by
  rw [BitVec.testBit_toNat, BitVec.msb_eq_getLsbD_last]

theorem toNat_highBit {n} (hn : 0 < n) (b : Bool) : (highBit n b).toNat = b.toNat * 2^(n-1) := by
  have : 2^(n-1) < 2^n := Nat.pow_lt_pow_right (by omega) (by omega)
  have h1 : 1 < 2^n := Nat.one_lt_two_pow (by omega)
  cases b <;> simp [highBit, lowBit, Nat.shiftLeft_eq, Nat.mod_eq_of_lt, this, h1]

theorem toNat_lowBit {n} (hn : 0 < n) (b : Bool) : (lowBit n b).toNat = b.toNat := by
  have h1 : 1 < 2^n := Nat.one_lt_two_pow (by omega)
  cases b <;> simp [lowBit, hn]

theorem toNat_shiftRight_or {n} (hn : 0 < n) (v : BitVec n) (b : Bool) : ((v >>> 1) ||| highBit n b).toNat = v.toNat / 2 + b.toNat * 2^(n-1) := by
  rw [BitVec.toNat_or, toNat_highBit hn, BitVec.toNat_ushiftRight]
  have : v.toNat >>> 1 < 2^(n-1) := by
    have := v.isLt
    rw [Nat.shiftRight_eq_div_pow]
    have e : 2^n = 2 * 2^(n-1) := by rw [← pow_succ']; congr 1; omega
    omega
  rw [Nat.or_comm, mul_comm b.toNat, ← Nat.two_pow_add_eq_or_of_lt this, Nat.shiftRight_eq_div_pow]
  ring

theorem toNat_shiftLeft_or {n} (hn : 0 < n) (v : BitVec n) (b : Bool) : ((v <<< 1) ||| lowBit n b).toNat = 2 * v.toNat % 2^n + b.toNat := by
  rw [BitVec.toNat_or, toNat_lowBit hn, BitVec.toNat_shiftLeft, Nat.shiftLeft_eq]
  have e : v.toNat * 2^1 % 2^n = 2^1 * (v.toNat * 2^1 % 2^n / 2) := by
    have e : 2^n = 2 * 2^(n-1) := by rw [← pow_succ']; congr 1; omega
    rw [e]; rw [show v.toNat * 2^1 = 2 * v.toNat by ring, Nat.mul_mod_mul_left]; omega
  have hb : b.toNat < 2^1 := by have := Bool.toNat_lt b; simpa using this
  rw [e, ← Nat.two_pow_add_eq_or_of_lt hb, ← e]
  congr 2; ring

end Sys2Proof.Machine
end

