-- ==== Sys2Proof/Laws/PerInstr.lean ====
section
/-! SUPPORT. Statements made per instruction. `EncodedLength`: the encoder writes as many bytes as the instruction's length
says, and no more than six (30_encoding.md R90, R113). -/

namespace Sys2Proof.Laws.EncodedLength

open Sys2Proof

/-- The bytes of the encoding are as many as the length formula says, at most six. -/
def Statement (i : Instr) : Prop := (encode i).length = i.len ∧ i.len ≤ 6

theorem length_encodeRm (k : BitVec 3) (e : RM (BitVec 3)) :
    (encodeRm k e).length = 1 + e.dispLen ∧ e.dispLen ≤ 2 := by
  cases e with
  | reg r => exact ⟨rfl, Nat.le_of_ble_eq_true rfl⟩
  | mem m => cases m <;> exact ⟨rfl, Nat.le_of_ble_eq_true rfl⟩

theorem dispLen_map {R S : Type} (f : R → S) (e : RM R) : (e.map f).dispLen = e.dispLen := by
  cases e with
  | reg r => rfl
  | mem m => cases m <;> rfl

theorem length_encodeE8 (k : BitVec 3) (e : RM8) : (encodeE8 k e).length = 1 + e.dispLen ∧ e.dispLen ≤ 2 :=
  dispLen_map Reg8.code e ▸ length_encodeRm k (e.map Reg8.code)

theorem length_encodeE16 (k : BitVec 3) (e : RM16) : (encodeE16 k e).length = 1 + e.dispLen ∧ e.dispLen ≤ 2 :=
  dispLen_map Reg16.code e ▸ length_encodeRm k (e.map Reg16.code)

theorem of_e8 (op : Byte) (k : BitVec 3) (e : RM8) (tail : List Byte) (n : Nat) (hn : n = 2 + tail.length + e.dispLen)
    (ht : tail.length ≤ 2) : (op :: (encodeE8 k e ++ tail)).length = n ∧ n ≤ 6 := by
  have h := length_encodeE8 k e
  simp only [List.length_cons, List.length_append, h.1]
  omega

theorem of_e16 (op : Byte) (k : BitVec 3) (e : RM16) (tail : List Byte) (n : Nat) (hn : n = 2 + tail.length + e.dispLen)
    (ht : tail.length ≤ 2) : (op :: (encodeE16 k e ++ tail)).length = n ∧ n ≤ 6 := by
  have h := length_encodeE16 k e
  simp only [List.length_cons, List.length_append, h.1]
  omega

theorem of_e8_end (op : Byte) (k : BitVec 3) (e : RM8) :
    (op :: encodeE8 k e).length = 2 + e.dispLen ∧ 2 + e.dispLen ≤ 6 := by
  have h := length_encodeE8 k e
  simp only [List.length_cons, h.1]
  omega

theorem of_e16_end (op : Byte) (k : BitVec 3) (e : RM16) :
    (op :: encodeE16 k e).length = 2 + e.dispLen ∧ 2 + e.dispLen ≤ 6 := by
  have h := length_encodeE16 k e
  simp only [List.length_cons, h.1]
  omega

theorem of_alu (k : BitVec 3) (f : AluForm) : (encodeAlu k f).length = f.len ∧ f.len ≤ 6 := by
  cases f with
  | ebGb e g => exact of_e8_end _ _ e
  | evGv e g => exact of_e16_end _ _ e
  | gbEb g e => exact of_e8_end _ _ e
  | gvEv g e => exact of_e16_end _ _ e
  | alIb i => exact ⟨rfl, Nat.le_of_ble_eq_true rfl⟩
  | axIv i => exact ⟨rfl, Nat.le_of_ble_eq_true rfl⟩
  | ebIb e i => exact of_e8 _ _ e [i] _ rfl (by simp)
  | evIv e i => exact of_e16 _ _ e (encodeWord i) _ rfl (by simp [encodeWord])
  | ebIbAlt e i => exact of_e8 _ _ e [i] _ rfl (by simp)
  | evIbSx e i => exact of_e16 _ _ e [i] _ rfl (by simp)

theorem of_shift (k : BitVec 3) (f : ShiftForm) : (encodeShift k f).length = f.len ∧ f.len ≤ 6 := by
  cases f with
  | eb1 e => exact of_e8_end _ _ e
  | ev1 e => exact of_e16_end _ _ e
  | ebCl e => exact of_e8_end _ _ e
  | evCl e => exact of_e16_end _ _ e

theorem of_unary (k : BitVec 3) (f : UnForm) : (encodeUnary k f).length = f.len ∧ f.len ≤ 6 := by
  cases f with
  | eb e => exact of_e8_end _ _ e
  | ev e => exact of_e16_end _ _ e

theorem of_incDec (k : BitVec 3) (row : BitVec 5) (f : IncForm) :
    (encodeIncDec k row f).length = f.len ∧ f.len ≤ 6 := by
  cases f with
  | r16 r => exact ⟨rfl, Nat.le_of_ble_eq_true rfl⟩
  | eb e => exact of_e8_end _ _ e
  | ev e => exact of_e16_end _ _ e

theorem of_test (f : TestForm) : (encodeTest f).length = f.len ∧ f.len ≤ 6 := by
  cases f with
  | gbEb g e => exact of_e8_end _ _ e
  | gvEv g e => exact of_e16_end _ _ e
  | alIb i => exact ⟨rfl, Nat.le_of_ble_eq_true rfl⟩
  | axIv i => exact ⟨rfl, Nat.le_of_ble_eq_true rfl⟩
  | ebIb e i => exact of_e8 _ _ e [i] _ rfl (by simp)
  | evIv e i => exact of_e16 _ _ e (encodeWord i) _ rfl (by simp [encodeWord])

theorem of_mov (f : MovForm) : (encodeMov f).length = f.len ∧ f.len ≤ 6 := by
  cases f with
  | ebGb e g => exact of_e8_end _ _ e
  | evGv e g => exact of_e16_end _ _ e
  | gbEb g e => exact of_e8_end _ _ e
  | gvEv g e => exact of_e16_end _ _ e

theorem add (f : AluForm) : Statement (.add f) := of_alu _ f

theorem or (f : AluForm) : Statement (.or f) := of_alu _ f

theorem adc (f : AluForm) : Statement (.adc f) := of_alu _ f

theorem sbb (f : AluForm) : Statement (.sbb f) := of_alu _ f

theorem and (f : AluForm) : Statement (.and f) := of_alu _ f

theorem sub (f : AluForm) : Statement (.sub f) := of_alu _ f

theorem xor (f : AluForm) : Statement (.xor f) := of_alu _ f

theorem cmp (f : AluForm) : Statement (.cmp f) := of_alu _ f

theorem test (f : TestForm) : Statement (.test f) := of_test f

theorem inc (f : IncForm) : Statement (.inc f) := of_incDec _ _ f

theorem dec (f : IncForm) : Statement (.dec f) := of_incDec _ _ f

theorem neg (f : UnForm) : Statement (.neg f) := of_unary _ f

theorem not (f : UnForm) : Statement (.not f) := of_unary _ f

theorem mul (f : UnForm) : Statement (.mul f) := of_unary _ f

theorem imul (f : UnForm) : Statement (.imul f) := of_unary _ f

theorem div (f : UnForm) : Statement (.div f) := of_unary _ f

theorem idiv (f : UnForm) : Statement (.idiv f) := of_unary _ f

theorem daa : Statement .daa := ⟨rfl, Nat.le_of_ble_eq_true rfl⟩

theorem das : Statement .das := ⟨rfl, Nat.le_of_ble_eq_true rfl⟩

theorem aaa : Statement .aaa := ⟨rfl, Nat.le_of_ble_eq_true rfl⟩

theorem aas : Statement .aas := ⟨rfl, Nat.le_of_ble_eq_true rfl⟩

theorem aam (base : Byte) : Statement (.aam base) := ⟨rfl, Nat.le_of_ble_eq_true rfl⟩

theorem aad (base : Byte) : Statement (.aad base) := ⟨rfl, Nat.le_of_ble_eq_true rfl⟩

theorem cbw : Statement .cbw := ⟨rfl, Nat.le_of_ble_eq_true rfl⟩

theorem cwd : Statement .cwd := ⟨rfl, Nat.le_of_ble_eq_true rfl⟩

theorem rol (f : ShiftForm) : Statement (.rol f) := of_shift _ f

theorem ror (f : ShiftForm) : Statement (.ror f) := of_shift _ f

theorem rcl (f : ShiftForm) : Statement (.rcl f) := of_shift _ f

theorem rcr (f : ShiftForm) : Statement (.rcr f) := of_shift _ f

theorem shl (f : ShiftForm) : Statement (.shl f) := of_shift _ f

theorem shr (f : ShiftForm) : Statement (.shr f) := of_shift _ f

theorem sar (f : ShiftForm) : Statement (.sar f) := of_shift _ f

theorem mov (f : MovForm) : Statement (.mov f) := of_mov f

theorem movImm (f : MovImmForm) : Statement (.movImm f) := by
  cases f with
  | ebIb g e i => exact of_e8 _ _ e [i] _ rfl (by simp)
  | evIv g e i => exact of_e16 _ _ e (encodeWord i) _ rfl (by simp [encodeWord])

theorem movRegImm (f : MovRegImmForm) : Statement (.movRegImm f) := by cases f <;> exact ⟨rfl, Nat.le_of_ble_eq_true rfl⟩

theorem movFromSeg (e : RM16) (sw : BitVec 3) : Statement (.movFromSeg e sw) := of_e16_end _ _ e

theorem movToSeg (sw : BitVec 3) (e : RM16) : Statement (.movToSeg sw e) := of_e16_end _ _ e

theorem movMoffs (f : MoffsForm) : Statement (.movMoffs f) := by cases f <;> exact ⟨rfl, Nat.le_of_ble_eq_true rfl⟩

theorem xchg (f : XchgForm) : Statement (.xchg f) := by
  cases f with
  | gbEb g e => exact of_e8_end _ _ e
  | gvEv g e => exact of_e16_end _ _ e

theorem xchgAx (r : Reg16) : Statement (.xchgAx r) := ⟨rfl, Nat.le_of_ble_eq_true rfl⟩

theorem lea (g : Reg16) (e : RM16) : Statement (.lea g e) := of_e16_end _ _ e

theorem lds (g : Reg16) (e : RM16) : Statement (.lds g e) := of_e16_end _ _ e

theorem les (g : Reg16) (e : RM16) : Statement (.les g e) := of_e16_end _ _ e

theorem xlat : Statement .xlat := ⟨rfl, Nat.le_of_ble_eq_true rfl⟩

theorem pushReg (r : Reg16) : Statement (.pushReg r) := ⟨rfl, Nat.le_of_ble_eq_true rfl⟩

theorem pushSeg (sr : SReg) : Statement (.pushSeg sr) := by cases sr <;> exact ⟨rfl, Nat.le_of_ble_eq_true rfl⟩

theorem pushRm (e : RM16) : Statement (.pushRm e) := of_e16_end _ _ e

theorem popReg (r : Reg16) : Statement (.popReg r) := ⟨rfl, Nat.le_of_ble_eq_true rfl⟩

theorem popSeg (sr : SReg) : Statement (.popSeg sr) := by cases sr <;> exact ⟨rfl, Nat.le_of_ble_eq_true rfl⟩

theorem popRm (ign : BitVec 3) (e : RM16) : Statement (.popRm ign e) := of_e16_end _ _ e

theorem pushf : Statement .pushf := ⟨rfl, Nat.le_of_ble_eq_true rfl⟩

theorem popf : Statement .popf := ⟨rfl, Nat.le_of_ble_eq_true rfl⟩

theorem lahf : Statement .lahf := ⟨rfl, Nat.le_of_ble_eq_true rfl⟩

theorem sahf : Statement .sahf := ⟨rfl, Nat.le_of_ble_eq_true rfl⟩

theorem jmpRel (f : JmpRelForm) : Statement (.jmpRel f) := by cases f <;> exact ⟨rfl, Nat.le_of_ble_eq_true rfl⟩

theorem jmpRm (e : RM16) : Statement (.jmpRm e) := of_e16_end _ _ e

theorem jmpFar (off : Word) (seg : Word) : Statement (.jmpFar off seg) := ⟨rfl, Nat.le_of_ble_eq_true rfl⟩

theorem jmpFarMem (e : RM16) : Statement (.jmpFarMem e) := of_e16_end _ _ e

theorem jo (rel : Byte) : Statement (.jo rel) := ⟨rfl, Nat.le_of_ble_eq_true rfl⟩

theorem jno (rel : Byte) : Statement (.jno rel) := ⟨rfl, Nat.le_of_ble_eq_true rfl⟩

theorem jb (rel : Byte) : Statement (.jb rel) := ⟨rfl, Nat.le_of_ble_eq_true rfl⟩

theorem jnb (rel : Byte) : Statement (.jnb rel) := ⟨rfl, Nat.le_of_ble_eq_true rfl⟩

theorem jz (rel : Byte) : Statement (.jz rel) := ⟨rfl, Nat.le_of_ble_eq_true rfl⟩

theorem jnz (rel : Byte) : Statement (.jnz rel) := ⟨rfl, Nat.le_of_ble_eq_true rfl⟩

theorem jbe (rel : Byte) : Statement (.jbe rel) := ⟨rfl, Nat.le_of_ble_eq_true rfl⟩

theorem ja (rel : Byte) : Statement (.ja rel) := ⟨rfl, Nat.le_of_ble_eq_true rfl⟩

theorem js (rel : Byte) : Statement (.js rel) := ⟨rfl, Nat.le_of_ble_eq_true rfl⟩

theorem jns (rel : Byte) : Statement (.jns rel) := ⟨rfl, Nat.le_of_ble_eq_true rfl⟩

theorem jpe (rel : Byte) : Statement (.jpe rel) := ⟨rfl, Nat.le_of_ble_eq_true rfl⟩

theorem jpo (rel : Byte) : Statement (.jpo rel) := ⟨rfl, Nat.le_of_ble_eq_true rfl⟩

theorem jl (rel : Byte) : Statement (.jl rel) := ⟨rfl, Nat.le_of_ble_eq_true rfl⟩

theorem jge (rel : Byte) : Statement (.jge rel) := ⟨rfl, Nat.le_of_ble_eq_true rfl⟩

theorem jle (rel : Byte) : Statement (.jle rel) := ⟨rfl, Nat.le_of_ble_eq_true rfl⟩

theorem jg (rel : Byte) : Statement (.jg rel) := ⟨rfl, Nat.le_of_ble_eq_true rfl⟩

theorem loop (rel : Byte) : Statement (.loop rel) := ⟨rfl, Nat.le_of_ble_eq_true rfl⟩

theorem loopz (rel : Byte) : Statement (.loopz rel) := ⟨rfl, Nat.le_of_ble_eq_true rfl⟩

theorem loopnz (rel : Byte) : Statement (.loopnz rel) := ⟨rfl, Nat.le_of_ble_eq_true rfl⟩

theorem jcxz (rel : Byte) : Statement (.jcxz rel) := ⟨rfl, Nat.le_of_ble_eq_true rfl⟩

theorem callRel (rel : Word) : Statement (.callRel rel) := ⟨rfl, Nat.le_of_ble_eq_true rfl⟩

theorem callRm (e : RM16) : Statement (.callRm e) := of_e16_end _ _ e

theorem callFar (off : Word) (seg : Word) : Statement (.callFar off seg) := ⟨rfl, Nat.le_of_ble_eq_true rfl⟩

theorem callFarMem (e : RM16) : Statement (.callFarMem e) := of_e16_end _ _ e

theorem ret : Statement .ret := ⟨rfl, Nat.le_of_ble_eq_true rfl⟩

theorem retImm (n : Word) : Statement (.retImm n) := ⟨rfl, Nat.le_of_ble_eq_true rfl⟩

theorem retf : Statement .retf := ⟨rfl, Nat.le_of_ble_eq_true rfl⟩

theorem retfImm (n : Word) : Statement (.retfImm n) := ⟨rfl, Nat.le_of_ble_eq_true rfl⟩

theorem int (n : Byte) : Statement (.int n) := ⟨rfl, Nat.le_of_ble_eq_true rfl⟩

theorem int3 : Statement .int3 := ⟨rfl, Nat.le_of_ble_eq_true rfl⟩

theorem into : Statement .into := ⟨rfl, Nat.le_of_ble_eq_true rfl⟩

theorem iret : Statement .iret := ⟨rfl, Nat.le_of_ble_eq_true rfl⟩

theorem movsb : Statement .movsb := ⟨rfl, Nat.le_of_ble_eq_true rfl⟩

theorem movsw : Statement .movsw := ⟨rfl, Nat.le_of_ble_eq_true rfl⟩

theorem cmpsb : Statement .cmpsb := ⟨rfl, Nat.le_of_ble_eq_true rfl⟩

theorem cmpsw : Statement .cmpsw := ⟨rfl, Nat.le_of_ble_eq_true rfl⟩

theorem scasb : Statement .scasb := ⟨rfl, Nat.le_of_ble_eq_true rfl⟩

theorem scasw : Statement .scasw := ⟨rfl, Nat.le_of_ble_eq_true rfl⟩

theorem lodsb : Statement .lodsb := ⟨rfl, Nat.le_of_ble_eq_true rfl⟩

theorem lodsw : Statement .lodsw := ⟨rfl, Nat.le_of_ble_eq_true rfl⟩

theorem stosb : Statement .stosb := ⟨rfl, Nat.le_of_ble_eq_true rfl⟩

theorem stosw : Statement .stosw := ⟨rfl, Nat.le_of_ble_eq_true rfl⟩

theorem segEs : Statement .segEs := ⟨rfl, Nat.le_of_ble_eq_true rfl⟩

theorem segCs : Statement .segCs := ⟨rfl, Nat.le_of_ble_eq_true rfl⟩

theorem segSs : Statement .segSs := ⟨rfl, Nat.le_of_ble_eq_true rfl⟩

theorem segDs : Statement .segDs := ⟨rfl, Nat.le_of_ble_eq_true rfl⟩

theorem repz : Statement .repz := ⟨rfl, Nat.le_of_ble_eq_true rfl⟩

theorem repnz : Statement .repnz := ⟨rfl, Nat.le_of_ble_eq_true rfl⟩

theorem lock : Statement .lock := ⟨rfl, Nat.le_of_ble_eq_true rfl⟩

theorem clc : Statement .clc := ⟨rfl, Nat.le_of_ble_eq_true rfl⟩

theorem stc : Statement .stc := ⟨rfl, Nat.le_of_ble_eq_true rfl⟩

theorem cmc : Statement .cmc := ⟨rfl, Nat.le_of_ble_eq_true rfl⟩

theorem cld : Statement .cld := ⟨rfl, Nat.le_of_ble_eq_true rfl⟩

theorem std : Statement .std := ⟨rfl, Nat.le_of_ble_eq_true rfl⟩

theorem cli : Statement .cli := ⟨rfl, Nat.le_of_ble_eq_true rfl⟩

theorem sti : Statement .sti := ⟨rfl, Nat.le_of_ble_eq_true rfl⟩

theorem nop : Statement .nop := ⟨rfl, Nat.le_of_ble_eq_true rfl⟩

theorem hlt : Statement .hlt := ⟨rfl, Nat.le_of_ble_eq_true rfl⟩

theorem wait : Statement .wait := ⟨rfl, Nat.le_of_ble_eq_true rfl⟩

theorem esc (op : BitVec 3) (ign : BitVec 3) (e : RM16) : Statement (.esc op ign e) := of_e16_end _ _ e

theorem inImm (w : Width) (port : Byte) : Statement (.inImm w port) := by cases w <;> exact ⟨rfl, Nat.le_of_ble_eq_true rfl⟩

theorem inDx (w : Width) : Statement (.inDx w) := by cases w <;> exact ⟨rfl, Nat.le_of_ble_eq_true rfl⟩

theorem outImm (w : Width) (port : Byte) : Statement (.outImm w port) := by cases w <;> exact ⟨rfl, Nat.le_of_ble_eq_true rfl⟩

theorem outDx (w : Width) : Statement (.outDx w) := by cases w <;> exact ⟨rfl, Nat.le_of_ble_eq_true rfl⟩

theorem unimplOp (op : Byte) : Statement (.unimplOp op) := ⟨rfl, Nat.le_of_ble_eq_true rfl⟩

theorem unimplGroup (op : Byte) (m : Byte) : Statement (.unimplGroup op m) := ⟨rfl, Nat.le_of_ble_eq_true rfl⟩

end Sys2Proof.Laws.EncodedLength
end

