-- ==== Sys2Proof/Laws/Stack.lean ====
section
/-! SUPPORT. Push, pop, trap entry: once each, everything they do (20_memory.md R82, 60_exceptions.md R360). -/

namespace Sys2Proof.Machine

theorem memWrite16_mem_congr {s t : State} (hm : t.mem = s.mem) (hc : t.cfg = s.cfg) (a v) : (t.memWrite16 a v).mem = (s.memWrite16 a v).mem := by
  simp [State.memWrite16, State.index, hm, hc]

theorem push16_eq (s : State) (v : Word) : s.push16 v = (s.setReg16 .sp (s.reg16 .sp - 2)).memWrite16 (s.stackAddress (s.reg16 .sp - 2)) v := by
  unfold State.push16 State.write16 State.stackAddress
  simp only [State.reg16_setReg16, if_true]
  rw [State.seg2abs_congr (s := s) (by simp) (by simp)]

/-- Everything a push does. -/
theorem push16_spec (s : State) (hi : s.Inv) (v : Word) :
    Only s (s.push16 v) [.sp] [] [] [s.stackAddress (s.reg16 .sp - 2), s.stackAddress (s.reg16 .sp - 2) + 1] ∧
    (s.push16 v).reg16 .sp = s.reg16 .sp - 2 ∧ (s.push16 v).memRead16 (s.stackAddress (s.reg16 .sp - 2)) = v ∧ (s.push16 v).ip = s.ip ∧
    (s.push16 v).flags = s.flags ∧ (∀ a, (s.push16 v).memRead8 a = (s.memWrite16 (s.stackAddress (s.reg16 .sp - 2)) v).memRead8 a) ∧
    (s.push16 v).sregs = s.sregs ∧ (s.push16 v).ovr = s.ovr ∧ (s.push16 v).cfg = s.cfg ∧ (s.push16 v).mem = (s.memWrite16 (s.stackAddress (s.reg16 .sp - 2)) v).mem ∧ (s.push16 v).clock = s.clock := by
  rw [push16_eq]
  have hm : ((s.setReg16 .sp (s.reg16 .sp - 2)).memWrite16 (s.stackAddress (s.reg16 .sp - 2)) v).mem = (s.memWrite16 (s.stackAddress (s.reg16 .sp - 2)) v).mem :=
    memWrite16_mem_congr (by simp) (by simp) _ _
  refine ⟨((only_setReg16 s .sp _).sub (by simp) (by simp) (by simp) (by simp)).trans
         ((only_memWrite16 _ ⟨by simpa using hi.memory.1, by simpa using hi.memory.2⟩ _ _).sub (by simp) (by simp) (by simp) (by simp)), by simp, ?_, by simp, by simp, ?_, by simp, by simp, by simp, hm, by simp⟩
  · rw [State.memRead16_memWrite16 _ _ _ (by simpa using hi.memory.1) (by simpa using hi.two)]
  · intro a; exact State.memRead8_congr hm (by simp) a

theorem State.Inv.push16 (s : State) (hi : s.Inv) (v : Word) : (s.push16 v).Inv := by
  obtain ⟨h, _, _, _, _, _, _, _, hc, hm, hk⟩ := push16_spec s hi v
  refine State.Inv.of_same_clock hi hc ⟨?_, ?_⟩ hk h.system.wallNS
  · rw [hm]; exact State.memWrite16_wf _ _ _ hi.memory.1
  · rw [hm, hc]; exact State.memWrite16_below _ _ _ hi.memory.2 (by have := hi.two; omega)

theorem push16_pushed (s : State) (hi : s.Inv) (v : Word) (len) : Pushed s ((s.push16 v).advance len) (fun w => w = v) len := by
  obtain ⟨h1,h2,h3,h4,h5,h6,h7⟩ := push16_spec s hi v
  exact ⟨by simp [State.advance, h2], h3, Only.advance h1 _, advance_ip h4 _⟩

theorem pop_fst (s : State) : s.pop16.1 = s.stackTop := rfl

theorem pop_snd (s : State) : s.pop16.2 = s.setReg16 .sp (s.reg16 .sp + 2) := rfl

theorem vector_eq (n : Byte) : vectorOffset n = 4 * n.toNat ∧ vectorSegment n = 4 * n.toNat + 2 := by
  have := n.isLt
  simp [vectorOffset, vectorSegment, phys, lin]; omega

/-- Everything a trap entry does, after flags were left unspecified. -/
theorem trap_entered {s u : State} {fl} (hi : s.Inv) (h : FlagsOnly s u fl) (n : Byte) (ret : Word) :
    TrapEntered s (u.trap n ret) n ret (u.flags.image (Config.freeWord u.draws)) ∧
     (u.trap n ret).flags = { u.flags with ifl := false, tf := false } := by
  have hspt : (s.reg16 .sp - 2 - 2 : Word) = s.reg16 .sp - 4 := by rw [BitVec.sub_sub]; rfl
  have hspt2 : (s.reg16 .sp - 4 - 2 : Word) = s.reg16 .sp - 6 := by rw [BitVec.sub_sub]; rfl
  set img := u.flags.image (Config.freeWord u.draws) with himg
  -- canonical after-push state
  set a1 := s.stackAddress (s.reg16 .sp - 2)
  set a2 := s.stackAddress (s.reg16 .sp - 4)
  set a3 := s.stackAddress (s.reg16 .sp - 6)
  -- stage states
  have e0 : ∀ (x : State) (hx1 : x.sregs = s.sregs) (hx2 : x.ovr = s.ovr) (w : Word), x.stackAddress w = s.stackAddress w := by
    intro x h1 h2 w; exact State.seg2abs_congr h1 h2 .ss w
  let s0 := u.setDraws (u.draws + 1)
  let s1 := s0.push16 img
  let s2 := s1.setFlags { s1.flags with ifl := false, tf := false }
  let s3 := s2.push16 (s2.sreg .cs)
  let s4 := s3.push16 ret
  let s5 := s4.setIp (s4.memRead16 (vectorOffset n))
  have ht : u.trap n ret = s5.setSReg .cs (s5.memRead16 (vectorSegment n)) := rfl
  have r1 : s1 = (s0.setReg16 .sp (s.reg16 .sp - 2)).memWrite16 a1 img := by
    show s0.push16 img = _
    rw [push16_eq, e0 s0 (by simp [s0, h.sregs]) (by simp [s0, h.system.ovr])]
    simp [s0, h.reg16]; rfl
  have m1 : s1.mem = (s.memWrite16 a1 img).mem := by
    rw [r1]; exact memWrite16_mem_congr (by simp [s0, h.mem]) (by simp [s0, h.system.cfg]) _ _
  have p1 : s1.sregs = s.sregs ∧ s1.ovr = s.ovr ∧ s1.cfg = s.cfg ∧ s1.reg16 .sp = s.reg16 .sp - 2 ∧ (∀ r, r ≠ .sp → s1.reg16 r = s.reg16 r) ∧ s1.flags = u.flags ∧ s1.rep = s.rep ∧ s1.halted = s.halted ∧ s1.clock = s.clock ∧ s1.pit = s.pit ∧ s1.video = s.video ∧ s1.lastDecode = s.lastDecode ∧ s1.wallNS = s.wallNS := by
    rw [r1]
    refine ⟨by simp [s0, h.sregs], by simp [s0, h.system.ovr], by simp [s0, h.system.cfg], by simp, fun r hr => by simp [s0, hr, h.reg16], by simp [s0], by simp [s0, h.system.rep], by simp [s0, h.system.halted], by simp [s0, h.system.clock], by simp [s0, h.system.pit], by simp [s0, h.system.video], by simp [s0, h.system.lastDecode], by simp [s0, h.system.wallNS]⟩
  have r3 : s3 = (s2.setReg16 .sp (s.reg16 .sp - 4)).memWrite16 a2 (s.sreg .cs) := by
    show s2.push16 (s2.sreg .cs) = _
    rw [push16_eq, e0 s2 (by simp [s2, p1.1]) (by simp [s2, p1.2.1])]
    have : s2.reg16 .sp = s.reg16 .sp - 2 := by simp [s2, p1.2.2.2.1]
    rw [this, hspt]
    have : s2.sreg .cs = s.sreg .cs := by simp [s2]; exact State.sreg_congr p1.1 _
    rw [this]
  have m3 : s3.mem = ((s.memWrite16 a1 img).memWrite16 a2 (s.sreg .cs)).mem := by
    rw [r3]; exact memWrite16_mem_congr (by simp [s2, m1]) (by simp [s2, p1.2.2.1]) _ _
  have r4 : s4 = (s3.setReg16 .sp (s.reg16 .sp - 6)).memWrite16 a3 ret := by
    show s3.push16 ret = _
    have q1 : s3.sregs = s.sregs := by rw [r3]; simp [s2, p1.1]
    have q2 : s3.ovr = s.ovr := by rw [r3]; simp [s2, p1.2.1]
    rw [push16_eq, e0 s3 q1 q2]
    have : s3.reg16 .sp = s.reg16 .sp - 4 := by rw [r3]; simp
    rw [this, hspt2]
  have m4 : s4.mem = (((s.memWrite16 a1 img).memWrite16 a2 (s.sreg .cs)).memWrite16 a3 ret).mem := by
    rw [r4]; exact memWrite16_mem_congr (by simp [m3]) (by rw [r3]; simp [s2, p1.2.2.1]) _ _
  have c4 : s4.cfg = s.cfg := by rw [r4, r3]; simp [s2, p1.2.2.1]
  have reg4 : s4.reg16 .sp = s.reg16 .sp - 6 ∧ ∀ r, r ≠ .sp → s4.reg16 r = s.reg16 r := by
    rw [r4, r3]
    refine ⟨by simp, fun r hr => ?_⟩
    simp [hr, s2, p1.2.2.2.2.1 r hr]
  have sr4 : s4.sregs = s.sregs := by rw [r4, r3]; simp [s2, p1.1]
  have f4 : s4.flags = { u.flags with ifl := false, tf := false } := by rw [r4, r3]; simp [s2, p1.2.2.2.2.2.1]
  have hm : ∀ a, (u.trap n ret).memRead8 a = (((s.memWrite16 a1 img).memWrite16 a2 (s.sreg .cs)).memWrite16 a3 ret).memRead8 a := by
    intro a; rw [ht]
    exact State.memRead8_congr (by simp [s5, m4]) (by simp [s5, c4]) a
  refine ⟨?_, ?_⟩
  · refine ⟨?_, ?_, ?_, ?_, ?_, ?_, ?_, hm, ?_, ?_⟩
    · rw [ht]; simp [s5, reg4.1]
    · intro r hr; rw [ht]; simp [s5, reg4.2 r hr]
    · intro r hr; rw [ht]; simp [s5, hr]; exact State.sreg_congr sr4 r
    · rw [ht, ← (vector_eq n).1]; simp only [State.setSReg_ip]
      show s4.memRead16 _ = _
      exact (State.memRead16_congr (by simp [s5]) (by simp [s5]) _).symm
    · rw [ht, ← (vector_eq n).2]; simp only [State.sreg_setSReg, if_true]
      exact (State.memRead16_congr (by simp [s5]) (by simp [s5]) _).symm
    · rw [ht]; simp [s5, f4, h.control]
    · have : (u.trap n ret).flags = { u.flags with ifl := false, tf := false } := by rw [ht]; simp [s5, f4]
      rw [this, ← h.control.1, ← h.control.2.1]
      exact image_carriesFlags u.flags _
    · intro a ha
      rw [hm a]
      have w1 := State.memWrite16_wf s a1 img hi.memory.1
      have w2 := State.memWrite16_wf _ a2 (s.sreg .cs) w1
      have i : ∀ (x : State) (hc : x.cfg = s.cfg) b, x.index b = s.index b := fun x hc b => State.index_congr hc b
      rw [State.memRead8_memWrite16 _ _ _ _ w2, State.memRead8_memWrite16 _ _ _ _ w1, State.memRead8_memWrite16 _ _ _ _ hi.memory.1]
      simp only [i _ (show ((s.memWrite16 a1 img).memWrite16 a2 (s.sreg .cs)).cfg = s.cfg by simp), i _ (show (s.memWrite16 a1 img).cfg = s.cfg by simp)]
      have k1 := ha 2 (by simp); have k2 := ha 4 (by simp); have k3 := ha 6 (by simp)
      rw [if_neg k3.2, if_neg k3.1, if_neg k2.2, if_neg k2.1, if_neg k1.2, if_neg k1.1]
    · rw [ht]
      have : ∀ (P : State → Prop), P s4 → P s4 := fun _ h => h
      constructor <;> simp [s5] <;> rw [r4, r3] <;> simp [s2, p1]
  · rw [ht]; simp [s5, f4]

end Sys2Proof.Machine
end

