-- ==== Sys2Proof/Laws/Strings.lean ====
section
/-! SUPPORT. Repetition (44_string.md R291) and the index step (R290). -/

namespace Sys2Proof.Machine

theorem delta_eq_indexStep (s : State) (k) : s.delta k = s.indexStep k := by
  unfold State.delta State.indexStep; split <;> simp

theorem delta_congr {s t : State} (h : t.flags.df = s.flags.df) (k) : t.delta k = s.delta k := by
  unfold State.delta; rw [h]

theorem repeatElement_false (k) (e : State → State) (n) (s : State) : repeatElement false k e n s = (fun u => (e u).setReg16 .cx ((e u).reg16 .cx - 1))^[n] s := by
  induction n generalizing s with
  | zero => rfl
  | succ n advance_ip => simp only [repeatElement, Bool.false_and]; rw [Function.iterate_succ_apply]; exact advance_ip _

/-- A repeated compare ends at the first turn that stops it. -/
theorem repeatElement_true (k) (e : State → State) (cx) (s : State) :
    let f := (fun u : State => (e u).setReg16 .cx ((e u).reg16 .cx - 1))
    ∃ n, n ≤ cx ∧ repeatElement true k e cx s = f^[n] s ∧ (∀ j, 0 < j → j < n → ¬ (repStops k (f^[j] s) = true)) ∧ (n = cx ∨ (0 < n ∧ repStops k (f^[n] s) = true)) := by
  intro f
  induction cx generalizing s with
  | zero => exact ⟨0, by simp, rfl, by omega, .inl rfl⟩
  | succ cx advance_ip =>
    by_cases h : repStops k (f s) = true
    · refine ⟨1, by omega, ?_, by omega, .inr ⟨by omega, h⟩⟩
      simp only [repeatElement, Bool.true_and]
      rw [if_pos h]; rfl
    · obtain ⟨n, h1, h2, h3, h4⟩ := advance_ip (f s)
      refine ⟨n+1, by omega, ?_, ?_, ?_⟩
      · simp only [repeatElement, Bool.true_and]
        rw [if_neg h, Function.iterate_succ_apply]; exact h2
      · intro j h5 h6
        obtain ⟨j, rfl⟩ : ∃ j', j = j' + 1 := ⟨j - 1, by omega⟩
        rw [Function.iterate_succ_apply]
        by_cases hj : j = 0
        · subst hj; exact h
        · exact h3 j (by omega) (by omega)
      · rcases h4 with h4|h4
        · exact .inl (by omega)
        · exact .inr ⟨by omega, by rw [Function.iterate_succ_apply]; exact h4.2⟩

end Sys2Proof.Machine
end

