-- ==== Sys2Proof/Tests/Slice0.lean ====
section
/-! SUPPORT. Tests: what WellFormed refuses; the decoding of every constructor from bytes written out from 30_encoding.md
R115 and R116; one step per instruction, with the results of 95_test_vectors.md (the identifiers in the comments, such
as A1, are its rows) or of the examples in the instruction rules. -/

namespace Sys2Proof.Tests

set_option Elab.async false

open Sys2Proof Sys2Proof.Machine

/-! ### Well-formedness: an ill-formed term for each check -/

/-- `[BP]` with no displacement, which no encoding stands for. -/
def badMem : MemOp := .base .bp

def bad8 : RM8 := .mem badMem

def bad16 : RM16 := .mem badMem

theorem test_wf_refuses_bp_two_operand :
    ([.add (.ebGb bad8 .al), .or (.evGv bad16 .ax), .adc (.gbEb .al bad8), .sbb (.gvEv .ax bad16), .and (.ebIb bad8 1),
      .sub (.evIv bad16 1), .xor (.ebIbAlt bad8 1), .cmp (.evIbSx bad16 1), .test (.gbEb .al bad8),
      .test (.gvEv .ax bad16), .test (.ebIb bad8 1), .test (.evIv bad16 1)] : List Instr).all (fun i => !i.wf) = true := by
  decide

theorem test_wf_refuses_bp_one_operand :
    ([.inc (.eb bad8), .dec (.ev bad16), .neg (.eb bad8), .not (.ev bad16), .mul (.eb bad8), .imul (.ev bad16),
      .div (.eb bad8), .idiv (.ev bad16), .rol (.eb1 bad8), .ror (.ev1 bad16), .rcl (.ebCl bad8), .rcr (.evCl bad16),
      .shl (.eb1 bad8), .shr (.ev1 bad16), .sar (.ebCl bad8)] : List Instr).all (fun i => !i.wf) = true := by
  decide

theorem test_wf_refuses_bp_transfer :
    ([.mov (.ebGb bad8 .al), .mov (.evGv bad16 .ax), .mov (.gbEb .al bad8), .mov (.gvEv .ax bad16),
      .movImm (.ebIb 0 bad8 1), .movImm (.evIv 0 bad16 1), .movFromSeg bad16 0, .movToSeg 0 bad16,
      .xchg (.gbEb .al bad8), .xchg (.gvEv .ax bad16), .lea .ax bad16, .lds .ax bad16, .les .ax bad16, .pushRm bad16,
      .popRm 0 bad16, .jmpRm bad16, .jmpFarMem bad16, .callRm bad16, .callFarMem bad16, .esc 0 0 bad16] :
        List Instr).all (fun i => !i.wf) = true := by
  decide

theorem test_wf_refuses_other :
    ([.xchgAx .ax, .popSeg .cs, .unimplOp 0x90, .unimplGroup 0xD0 0xC0, .unimplGroup 0xF6 0xC0, .unimplGroup 0xFE 0xC8,
      .unimplGroup 0xFF 0xF0, .unimplGroup 0x80 0xF0] : List Instr).all (fun i => !i.wf) = true := by
  decide

/-! ### Decoding -/

/-- The bytes are exactly one instruction, `i`, and it is well-formed. -/
def reads (bs : List Byte) (i : Instr) : Bool :=
  match decode bs with
  | .ok (j, rest) => j == i && rest.isEmpty && i.wf
  | .error _ => false

def allRead (rows : List (List Byte × Instr)) : Bool := rows.all fun r => reads r.1 r.2

theorem test_decode_two_operand : allRead
    [([0x00, 0xD8], .add (.ebGb (.reg .al) .bl)), ([0x01, 0x1F], .add (.evGv (.mem (.base .bx)) .bx)),
     ([0x0A, 0x46, 0xFE], .or (.gbEb .al (.mem (.disp8 .bp 0xFE)))), ([0x13, 0xC3], .adc (.gvEv .ax (.reg .bx))),
     ([0x1C, 0x7F], .sbb (.alIb 0x7F)), ([0x25, 0x34, 0x12], .and (.axIv 0x1234)),
     ([0x80, 0x2E, 0x00, 0x02, 0x05], .sub (.ebIb (.mem (.direct 0x0200)) 0x05)),
     ([0x81, 0xB6, 0x02, 0x01, 0x34, 0x12], .xor (.evIv (.mem (.disp16 .bp 0x0102)) 0x1234)),
     ([0x82, 0xC0, 0x05], .add (.ebIbAlt (.reg .al) 0x05)), ([0x83, 0xF8, 0x80], .cmp (.evIbSx (.reg .ax) 0x80)),
     ([0x84, 0xC3], .test (.gbEb .al (.reg .bl))), ([0x85, 0xC0], .test (.gvEv .ax (.reg .ax))),
     ([0xA8, 0x80], .test (.alIb 0x80)), ([0xA9, 0x01, 0x80], .test (.axIv 0x8001)),
     ([0xF6, 0xC3, 0x01], .test (.ebIb (.reg .bl) 0x01)),
     ([0xF7, 0x07, 0x34, 0x12], .test (.evIv (.mem (.base .bx)) 0x1234))] = true := by
  decide +kernel

theorem test_decode_one_operand : allRead
    [([0x40], .inc (.r16 .ax)), ([0x4B], .dec (.r16 .bx)), ([0xFE, 0xC0], .inc (.eb (.reg .al))),
     ([0xFE, 0x08], .dec (.eb (.mem (.base .bxSi)))), ([0xFF, 0x06, 0x00, 0x02], .inc (.ev (.mem (.direct 0x0200)))),
     ([0xFF, 0xCF], .dec (.ev (.reg .di))), ([0xF7, 0xD8], .neg (.ev (.reg .ax))), ([0xF6, 0xD0], .not (.eb (.reg .al))),
     ([0xF7, 0xE3], .mul (.ev (.reg .bx))), ([0xF6, 0xEB], .imul (.eb (.reg .bl))), ([0xF7, 0xF3], .div (.ev (.reg .bx))),
     ([0xF6, 0xFB], .idiv (.eb (.reg .bl))), ([0x27], .daa), ([0x2F], .das), ([0x37], .aaa), ([0x3F], .aas),
     ([0xD4, 0x0A], .aam 0x0A), ([0xD5, 0x0A], .aad 0x0A), ([0x98], .cbw), ([0x99], .cwd)] = true := by
  decide +kernel

theorem test_decode_shift : allRead
    [([0xD0, 0x07], .rol (.eb1 (.mem (.base .bx)))), ([0xD1, 0xC8], .ror (.ev1 (.reg .ax))),
     ([0xD2, 0xD0], .rcl (.ebCl (.reg .al))), ([0xD3, 0xD8], .rcr (.evCl (.reg .ax))), ([0xD0, 0xE1], .shl (.eb1 (.reg .cl))),
     ([0xD3, 0xE8], .shr (.evCl (.reg .ax))), ([0xD1, 0xF8], .sar (.ev1 (.reg .ax)))] = true := by
  decide +kernel

theorem test_decode_transfer : allRead
    [([0x88, 0xE0], .mov (.ebGb (.reg .al) .ah)), ([0x89, 0xD8], .mov (.evGv (.reg .ax) .bx)),
     ([0x8A, 0xE7], .mov (.gbEb .ah (.reg .bh))), ([0x8B, 0x42, 0x80], .mov (.gvEv .ax (.mem (.disp8 .bpSi 0x80)))),
     ([0xC6, 0x07, 0xAB], .movImm (.ebIb 0 (.mem (.base .bx)) 0xAB)),
     ([0xC7, 0x86, 0x00, 0x10, 0x34, 0x12], .movImm (.evIv 0 (.mem (.disp16 .bp 0x1000)) 0x1234)),
     ([0xB4, 0x12], .movRegImm (.r8 .ah 0x12)), ([0xB8, 0x34, 0x12], .movRegImm (.r16 .ax 0x1234)),
     ([0x8C, 0xC8], .movFromSeg (.reg .ax) 1), ([0x8E, 0xD0], .movToSeg 2 (.reg .ax)),
     ([0xA0, 0x10, 0x00], .movMoffs (.alOb 0x0010)), ([0xA1, 0x00, 0x03], .movMoffs (.axOv 0x0300)),
     ([0xA2, 0x10, 0x00], .movMoffs (.obAl 0x0010)), ([0xA3, 0xFF, 0xFF], .movMoffs (.ovAx 0xFFFF)),
     ([0x86, 0x07], .xchg (.gbEb .al (.mem (.base .bx)))), ([0x87, 0xD9], .xchg (.gvEv .bx (.reg .cx))),
     ([0x94], .xchgAx .sp), ([0x8D, 0x40, 0x05], .lea .ax (.mem (.disp8 .bxSi 0x05))),
     ([0xC5, 0x37], .lds .si (.mem (.base .bx))), ([0xC4, 0x3E, 0x00, 0x05], .les .di (.mem (.direct 0x0500))),
     ([0xD7], .xlat), ([0x54], .pushReg .sp), ([0x0E], .pushSeg .cs), ([0xFF, 0xF4], .pushRm (.reg .sp)),
     ([0x5C], .popReg .sp), ([0x17], .popSeg .ss), ([0x8F, 0x06, 0x00, 0x02], .popRm 0 (.mem (.direct 0x0200))),
     ([0x9C], .pushf), ([0x9D], .popf), ([0x9F], .lahf), ([0x9E], .sahf)] = true := by
  decide +kernel

theorem test_decode_control : allRead
    [([0xEB, 0x05], .jmpRel (.short 0x05)), ([0xE9, 0xFB, 0xFF], .jmpRel (.near 0xFFFB)), ([0xFF, 0xE3], .jmpRm (.reg .bx)),
     ([0xEA, 0x00, 0x01, 0x00, 0x20], .jmpFar 0x0100 0x2000), ([0xFF, 0x2E, 0x00, 0x02], .jmpFarMem (.mem (.direct 0x0200))),
     ([0x70, 0x10], .jo 0x10), ([0x71, 0x10], .jno 0x10), ([0x72, 0x10], .jb 0x10), ([0x73, 0x10], .jnb 0x10),
     ([0x74, 0x10], .jz 0x10), ([0x75, 0x10], .jnz 0x10), ([0x76, 0x10], .jbe 0x10), ([0x77, 0x10], .ja 0x10),
     ([0x78, 0x10], .js 0x10), ([0x79, 0x10], .jns 0x10), ([0x7A, 0x10], .jpe 0x10), ([0x7B, 0x10], .jpo 0x10),
     ([0x7C, 0x10], .jl 0x10), ([0x7D, 0x10], .jge 0x10), ([0x7E, 0x10], .jle 0x10), ([0x7F, 0x10], .jg 0x10),
     ([0xE2, 0xFC], .loop 0xFC), ([0xE1, 0xFA], .loopz 0xFA), ([0xE0, 0xFA], .loopnz 0xFA), ([0xE3, 0x06], .jcxz 0x06),
     ([0xE8, 0x10, 0x00], .callRel 0x0010), ([0xFF, 0xD3], .callRm (.reg .bx)),
     ([0x9A, 0x00, 0x00, 0x00, 0x30], .callFar 0x0000 0x3000),
     ([0xFF, 0x1E, 0x00, 0x02], .callFarMem (.mem (.direct 0x0200))), ([0xC3], .ret), ([0xC2, 0x04, 0x00], .retImm 0x0004),
     ([0xCB], .retf), ([0xCA, 0x02, 0x00], .retfImm 0x0002), ([0xCD, 0x21], .int 0x21), ([0xCC], .int3), ([0xCE], .into),
     ([0xCF], .iret)] = true := by
  decide +kernel

theorem test_decode_misc : allRead
    [([0xA4], .movsb), ([0xA5], .movsw), ([0xA6], .cmpsb), ([0xA7], .cmpsw), ([0xAA], .stosb), ([0xAB], .stosw),
     ([0xAC], .lodsb), ([0xAD], .lodsw), ([0xAE], .scasb), ([0xAF], .scasw), ([0x26], .segEs), ([0x2E], .segCs),
     ([0x36], .segSs), ([0x3E], .segDs), ([0xF3], .repz), ([0xF2], .repnz), ([0xF0], .lock), ([0xF8], .clc), ([0xF9], .stc),
     ([0xF5], .cmc), ([0xFC], .cld), ([0xFD], .std), ([0xFA], .cli), ([0xFB], .sti), ([0x90], .nop), ([0xF4], .hlt),
     ([0x9B], .wait), ([0xD9, 0x06, 0x34, 0x12], .esc 1 0 (.mem (.direct 0x1234))), ([0xDB, 0xE3], .esc 3 4 (.reg .bx)),
     ([0xE4, 0x99], .inImm .byte 0x99), ([0xE5, 0x40], .inImm .word 0x40), ([0xEC], .inDx .byte), ([0xED], .inDx .word),
     ([0xE6, 0x43], .outImm .byte 0x43), ([0xE7, 0x43], .outImm .word 0x43), ([0xEE], .outDx .byte), ([0xEF], .outDx .word),
     ([0x0F], .unimplOp 0x0F), ([0x60], .unimplOp 0x60), ([0x6F], .unimplOp 0x6F), ([0xC0], .unimplOp 0xC0),
     ([0xC9], .unimplOp 0xC9), ([0xD6], .unimplOp 0xD6), ([0xF1], .unimplOp 0xF1), ([0xD0, 0xF0], .unimplGroup 0xD0 0xF0),
     ([0xF7, 0xC8], .unimplGroup 0xF7 0xC8), ([0xFE, 0xD0], .unimplGroup 0xFE 0xD0),
     ([0xFF, 0xF8], .unimplGroup 0xFF 0xF8)] = true := by
  decide +kernel

/-- The table writes an encoding as `0xHHLL`, the opcode byte in the high half (30_encoding.md R128). -/
theorem test_table_words :
    decodeTableWord 16 0x05FF = some (.add (.axIv 0x00FF)) ∧ decodeTableWord 16 0xF7D8 = some (.neg (.ev (.reg .ax))) ∧
    decodeTableWord 16 0x9000 = some .nop ∧ decodeTableWord 16 0xD0F0 = some (.unimplGroup 0xD0 0xF0) := by
  decide +kernel

/-! ### One step -/

/-- The vectors' configuration: `MEM_SIZE` = 65536, the interval timer at ports 0x40 to 0x43. -/
def vectorConfig : Config := { Config.standard with memSize := 65536 }

/-- The vectors' start: all segment registers 0, no latch, not halted; IP is 0x0100 and SP 0x1000. -/
def start : State :=
  { State.resetWith vectorConfig with
    sregs := { es := 0, cs := 0, ss := 0, ds := 0 }
    ip := 0x0100
    regs := { ax := 0, cx := 0, dx := 0, bx := 0, sp := 0x1000, bp := 0, si := 0, di := 0 } }

/-- Bytes placed at an array index. -/
def put (s : State) : Nat → List Byte → State
  | _, [] => s
  | a, b :: bs => put (s.memWrite8 a b) (a + 1) bs

/-- One step over the bytes placed at CS:IP ends in a next state with the property. -/
def after (bytes : List Byte) (s : State) (good : State → Bool) : Bool :=
  match step (put s (phys (s.sreg .cs) s.ip) bytes) with
  | .next t => good t
  | .fault _ => false
  | .refused _ => false

/-- One step over the bytes placed at CS:IP ends in the fault. -/
def faults (bytes : List Byte) (f : Fault) : Bool :=
  match step (put start 0x0100 bytes) with
  | .next _ => false
  | .fault g => g == f
  | .refused _ => false

/-- One step over the bytes placed at CS:IP is refused so. -/
def refuses (bytes : List Byte) (r : Refusal) : Bool :=
  match step (put start 0x0100 bytes) with
  | .next _ => false
  | .fault _ => false
  | .refused q => q == r

/-- Old contents under the stack pointer, where a trap will push: its FLAGS word holds unspecified bits, and over bytes
already listed the kernel reads the other addresses without looking at it. -/
def usedStack (s : State) : State := put s ((s.reg16 .sp).toNat - 6) [0xAA, 0xAA, 0xAA, 0xAA, 0xAA, 0xAA]

/-- CF PF AF ZF SF OF, in the vectors' order. -/
def six (t : State) : List Nat :=
  [t.flags.cf, t.flags.pf, t.flags.af, t.flags.zf, t.flags.sf, t.flags.ofl].map Bool.toNat

/-- SF ZF PF, in the order of the shift table. -/
def szp (t : State) : List Nat := [t.flags.sf, t.flags.zf, t.flags.pf].map Bool.toNat

def ax (v : Word) (s : State := start) : State := s.setReg16 .ax v
def bx (v : Word) (s : State := start) : State := s.setReg16 .bx v
def cx (v : Word) (s : State := start) : State := s.setReg16 .cx v
def dx (v : Word) (s : State := start) : State := s.setReg16 .dx v
def withCf (s : State) : State := s.setFlags { s.flags with cf := true }
def withAf (s : State) : State := s.setFlags { s.flags with af := true }
def withDf (s : State) : State := s.setFlags { s.flags with df := true }
def withZf (s : State) : State := s.setFlags { s.flags with zf := true }

/-- A1, A22. -/
theorem test_add :
    after [0x05, 0x01, 0x00] (ax 0x7FFF) (fun t => t.reg16 .ax == 0x8000 && six t == [0, 1, 1, 0, 1, 1] && t.ip == 0x0103) &&
    after [0x83, 0xC0, 0xFF] (ax 1) (fun t => t.reg16 .ax == 0 && six t == [1, 1, 1, 1, 0, 0]) = true := by
  decide +kernel

/-- A6, A7. -/
theorem test_adc :
    after [0x14, 0x00] (withCf (ax 0x007F)) (fun t => t.reg8 .al == 0x80 && six t == [0, 0, 1, 0, 1, 1]) &&
    after [0x11, 0xC0] (withCf (ax 0xFFFF)) (fun t => t.reg16 .ax == 0xFFFF && six t == [1, 1, 1, 0, 1, 0]) = true := by
  decide +kernel

/-- A10, A11. -/
theorem test_sub :
    after [0x2D, 0x01, 0x00] (ax 0x8000) (fun t => t.reg16 .ax == 0x7FFF && six t == [0, 1, 1, 0, 0, 1]) &&
    after [0x2C, 0xFF] (ax 0x007F) (fun t => t.reg8 .al == 0x80 && six t == [1, 0, 0, 0, 1, 1]) = true := by
  decide +kernel

/-- A15, A18. -/
theorem test_sbb :
    after [0x1C, 0x7F] (withCf (ax 0x0080)) (fun t => t.reg8 .al == 0 && six t == [0, 1, 1, 1, 0, 1]) &&
    after [0x1D, 0xFF, 0xFF] (withCf (ax 0)) (fun t => t.reg16 .ax == 0 && six t == [1, 1, 1, 1, 0, 0]) = true := by
  decide +kernel

/-- S9, A20. -/
theorem test_cmp :
    after [0x3D, 0x34, 0x12] (ax 0x1235)
      (fun t => t.reg16 .ax == 0x1235 && six t == [0, 0, 0, 0, 0, 0] && t.ip == 0x0103 && t.clock.cycles == 1) &&
    after [0x3C, 0x7F] (ax 0x0080) (fun t => t.reg8 .al == 0x80 && six t == [0, 0, 1, 0, 0, 1]) = true := by
  decide +kernel

/-- A30, A41. -/
theorem test_inc :
    after [0xFE, 0xC0] (ax 0x00FF) (fun t => t.reg16 .ax == 0 && six t == [1, 1, 1, 1, 0, 0]) &&
    after [0xFF, 0x06, 0x00, 0x02] (put start 0x0200 [0xFF, 0x00])
      (fun t => t.memRead16 0x0200 == 0x0100 && six t == [0, 1, 1, 0, 0, 0] && t.ip == 0x0104) = true := by
  decide +kernel

/-- S5, A34. -/
theorem test_dec :
    after [0x49] (cx 0) (fun t => t.reg16 .cx == 0xFFFF && six t == [1, 1, 1, 0, 1, 0]) &&
    after [0x48] (ax 0x8000) (fun t => t.reg16 .ax == 0x7FFF && six t == [0, 1, 1, 0, 0, 1]) = true := by
  decide +kernel

/-- S6. -/
theorem test_neg :
    after [0xF7, 0xD8] (ax 0x8000) (fun t => t.reg16 .ax == 0x8000 && six t == [1, 1, 0, 0, 1, 1]) &&
    after [0xF6, 0xD8] (ax 0x0080) (fun t => t.reg8 .al == 0x80 && six t == [1, 0, 0, 0, 1, 1]) = true := by
  decide +kernel

/-- A50, A53. -/
theorem test_mul :
    after [0xF7, 0xE3] (ax 0xFFFF (bx 0xFFFF))
      (fun t => t.reg16 .dx == 0xFFFE && t.reg16 .ax == 1 && t.flags.cf && t.flags.ofl) &&
    after [0xF7, 0xE2] (ax 0x0100 (dx 0x0100)) (fun t => t.reg16 .dx == 1 && t.reg16 .ax == 0 && t.flags.cf) = true := by
  decide +kernel

/-- A54, A57. -/
theorem test_imul :
    after [0xF7, 0xEB] (ax 0x8000 (bx 0xFFFF))
      (fun t => t.reg16 .dx == 0 && t.reg16 .ax == 0x8000 && t.flags.cf && t.flags.ofl) &&
    after [0xF6, 0xEB] (ax 0x00FF (bx 1)) (fun t => t.reg16 .ax == 0xFFFF && !t.flags.cf && !t.flags.ofl) = true := by
  decide +kernel

/-- A60; T3 with A59. -/
theorem test_div :
    after [0xF6, 0xF3] (ax 0xFEFF (bx 0x00FF)) (fun t => t.reg16 .ax == 0xFEFF && t.ip == 0x0102) &&
    after [0xF7, 0xF3] (usedStack (put (ax 0 (bx 2 (dx 2))) 0 [0x00, 0x02, 0x00, 0x00]))
      (fun t => t.reg16 .ax == 0 && t.reg16 .dx == 2 && t.reg16 .sp == 0x0FFA && t.ip == 0x0200 &&
        t.memRead16 0x0FFA == 0x0102) = true := by
  decide +kernel

/-- A65; A63. -/
theorem test_idiv :
    after [0xF6, 0xFB] (ax 0x0007 (bx 0x00FE)) (fun t => t.reg16 .ax == 0x01FD) &&
    after [0xF6, 0xFB] (usedStack (put (ax 0xFF80 (bx 1)) 0 [0x00, 0x02, 0x00, 0x00]))
      (fun t => t.reg16 .ax == 0xFF80 && t.reg16 .sp == 0x0FFA && t.ip == 0x0200) = true := by
  decide +kernel

/-- A70, A71. -/
theorem test_daa :
    after [0x27] (ax 0x009A) (fun t => t.reg8 .al == 0 && t.flags.af && t.flags.cf && szp t == [0, 1, 1]) &&
    after [0x27] (ax 0x000F) (fun t => t.reg8 .al == 0x15 && t.flags.af && !t.flags.cf && szp t == [0, 0, 0]) = true := by
  decide +kernel

/-- A73. -/
theorem test_das :
    after [0x2F] (withAf (withCf (ax 0x00FF)))
      (fun t => t.reg8 .al == 0x99 && t.flags.af && t.flags.cf && szp t == [1, 0, 1]) = true := by
  decide +kernel

/-- A74, A75. -/
theorem test_aaa :
    after [0x37] (ax 0x000F) (fun t => t.reg16 .ax == 0x0105 && t.flags.af && t.flags.cf) &&
    after [0x37] (ax 0x0005) (fun t => t.reg16 .ax == 0x0005 && !t.flags.af && !t.flags.cf) = true := by
  decide +kernel

/-- A76. -/
theorem test_aas :
    after [0x3F] (withAf (ax 0x01FF)) (fun t => t.reg16 .ax == 0x0009 && t.flags.af && t.flags.cf) = true := by
  decide +kernel

/-- A77, A78. -/
theorem test_aam :
    after [0xD4, 0x0A] (ax 0x003F) (fun t => t.reg16 .ax == 0x0603 && szp t == [0, 0, 1]) &&
    after [0xD4, 0x00] (usedStack (ax 0x003F)) (fun t => t.reg16 .ax == 0x003F && t.memRead16 0x0FFA == 0x0102) = true := by
  decide +kernel

/-- A79. -/
theorem test_aad :
    after [0xD5, 0x0A] (ax 0x0603) (fun t => t.reg16 .ax == 0x003F && szp t == [0, 0, 1]) = true := by
  decide +kernel

/-- A80. -/
theorem test_cbw :
    after [0x98] (ax 0x0080) (fun t => t.reg16 .ax == 0xFF80 && six t == [0, 0, 0, 0, 0, 0]) = true := by
  decide +kernel

/-- A81, A82. -/
theorem test_cwd :
    after [0x99] (ax 0x7FFF (dx 0x1111)) (fun t => t.reg16 .dx == 0) &&
    after [0x99] (ax 0x8000) (fun t => t.reg16 .dx == 0xFFFF) = true := by
  decide +kernel

/-- L1, L2. -/
theorem test_and :
    after [0x24, 0x0F] (ax 0x003C) (fun t => t.reg8 .al == 0x0C && szp t == [0, 0, 1] && !t.flags.cf && !t.flags.ofl) &&
    after [0x83, 0xE3, 0xF0] (bx 0x1234) (fun t => t.reg16 .bx == 0x1230 && szp t == [0, 0, 1]) = true := by
  decide +kernel

/-- L3. -/
theorem test_or :
    after [0x0D, 0x00, 0x80] (ax 0x0001) (fun t => t.reg16 .ax == 0x8001 && szp t == [1, 0, 0]) = true := by
  decide +kernel

/-- L4. -/
theorem test_xor :
    after [0x31, 0xC0] (withCf (ax 0x1234)) (fun t => t.reg16 .ax == 0 && szp t == [0, 1, 1] && !t.flags.cf) = true := by
  decide +kernel

/-- L5. -/
theorem test_not :
    after [0xF6, 0xD0] (withCf (ax 0x000F)) (fun t => t.reg8 .al == 0xF0 && six t == [1, 0, 0, 0, 0, 0]) = true := by
  decide +kernel

/-- L8, L9. -/
theorem test_test :
    after [0x85, 0xC0] (withCf (ax 0x8000)) (fun t => t.reg16 .ax == 0x8000 && !t.flags.cf && szp t == [1, 0, 1]) &&
    after [0xF6, 0xC3, 0x01] (bx 3) (fun t => t.reg16 .bx == 3 && szp t == [0, 0, 0] && t.ip == 0x0103) = true := by
  decide +kernel

/-- H1, H3. -/
theorem test_rol :
    after [0xD1, 0xC0] (ax 0x8000) (fun t => t.reg16 .ax == 1 && t.flags.cf && t.flags.ofl) &&
    after [0xD2, 0xC0] (ax 0x0081 (cx 8)) (fun t => t.reg8 .al == 0x81 && t.flags.cf) = true := by
  decide +kernel

/-- H4, H5. -/
theorem test_ror :
    after [0xD1, 0xC8] (ax 1) (fun t => t.reg16 .ax == 0x8000 && t.flags.cf && t.flags.ofl) &&
    after [0xD2, 0xC8] (withCf (ax 0x0012 (cx 4))) (fun t => t.reg8 .al == 0x21 && !t.flags.cf) = true := by
  decide +kernel

/-- H6, H7. -/
theorem test_rcl :
    after [0xD2, 0xD0] (withCf (ax 0x0080 (cx 9))) (fun t => t.reg8 .al == 0x80 && t.flags.cf) &&
    after [0xD1, 0xD0] (withCf (ax 0x7FFF)) (fun t => t.reg16 .ax == 0xFFFF && !t.flags.cf && t.flags.ofl) = true := by
  decide +kernel

/-- H9, H10. -/
theorem test_rcr :
    after [0xD0, 0xD8] (withCf (ax 0)) (fun t => t.reg8 .al == 0x80 && !t.flags.cf && t.flags.ofl) &&
    after [0xD2, 0xD8] (ax 0x0081 (cx 2)) (fun t => t.reg8 .al == 0xA0 && !t.flags.cf) = true := by
  decide +kernel

/-- H11, H25. -/
theorem test_shl :
    after [0xD1, 0xE0] (ax 0x4000) (fun t => t.reg16 .ax == 0x8000 && !t.flags.cf && t.flags.ofl && szp t == [1, 0, 1]) &&
    after [0xD2, 0xE1] (cx 2) (fun t => t.reg8 .cl == 8 && !t.flags.cf && szp t == [0, 0, 0]) = true := by
  decide +kernel

/-- H16, H17. -/
theorem test_shr :
    after [0xD0, 0xE8] (ax 0x0080) (fun t => t.reg8 .al == 0x40 && !t.flags.cf && t.flags.ofl && szp t == [0, 0, 0]) &&
    after [0xD3, 0xE8] (ax 0xFFFF (cx 16)) (fun t => t.reg16 .ax == 0 && t.flags.cf && szp t == [0, 1, 1]) = true := by
  decide +kernel

/-- H21, H24. -/
theorem test_sar :
    after [0xD2, 0xF8] (ax 0x0080 (cx 255)) (fun t => t.reg8 .al == 0xFF && t.flags.cf && szp t == [1, 0, 1]) &&
    after [0xD1, 0xF8] (ax 0xFFFE) (fun t => t.reg16 .ax == 0xFFFF && !t.flags.cf && !t.flags.ofl) = true := by
  decide +kernel

/-- H15: a count of 0 changes nothing. -/
theorem test_zero_count :
    after [0xD2, 0xE0] (withCf (ax 1)) (fun t => t.reg8 .al == 1 && six t == [1, 0, 0, 0, 0, 0]) = true := by
  decide +kernel

/-- DT1, DT2. -/
theorem test_mov :
    after [0x88, 0xE0] (ax 0x12FF) (fun t => t.reg16 .ax == 0x1212) &&
    after [0x8B, 0x1F] (put (bx 0x0200) 0x0200 [0x00, 0x03]) (fun t => t.reg16 .bx == 0x0300) = true := by
  decide +kernel

/-- E3, E5: the default segment and the wrap of the effective address. -/
theorem test_effective_address :
    let s := { start with
      sregs := { es := 0x0300, cs := 0, ss := 0x0200, ds := 0x0100 }
      regs := { start.regs with bx := 0x1000, bp := 0x2000, si := 0x0030, di := 0x0004 } }
    after [0x8B, 0x46, 0xFE] (put s 0x03FFE [0xEF, 0xBE]) (fun t => t.reg16 .ax == 0xBEEF) &&
    after [0x8B, 0x80, 0x00, 0xF0] (put s 0x01030 [0xEF, 0xBE]) (fun t => t.reg16 .ax == 0xBEEF) = true := by
  decide +kernel

/-- DT3, E10. -/
theorem test_mov_imm :
    after [0xC6, 0x07, 0xAB] (put (bx 0x0200) 0x0200 [0xFF, 0xFF]) (fun t => t.memRead16 0x0200 == 0xFFAB) &&
    after [0xC7, 0x86, 0x00, 0x10, 0x34, 0x12] ((start.setReg16 .bp 0x2000).setSReg .ss 0x0200)
      (fun t => t.memRead8 0x5000 == 0x34 && t.memRead8 0x5001 == 0x12 && t.ip == 0x0106) = true := by
  decide +kernel

/-- S1, M6. -/
theorem test_mov_reg_imm :
    after [0xB4, 0x12] (ax 0x00FF) (fun t => t.reg16 .ax == 0x12FF) &&
    after [] (put (put (start.setIp 0xFFFE) 0xFFFE [0xB8, 0x34]) 0 [0x12]) (fun t => t.reg16 .ax == 0x1234 && t.ip == 1)
      = true := by
  decide +kernel

/-- DT4. -/
theorem test_mov_from_seg :
    after [0x8C, 0xC8] (start.setSReg .cs 0xF000) (fun t => t.reg16 .ax == 0xF000) = true := by
  decide +kernel

/-- DT5, DT6. -/
theorem test_mov_to_seg :
    after [0x8E, 0xD0] (ax 0x2000) (fun t => t.sreg .ss == 0x2000) &&
    after [0x8E, 0xC8] (ax 0x1000) (fun t => t.sreg .cs == 0x1000 && t.ip == 0x0102) = true := by
  decide +kernel

/-- DT7; M1, the word that wraps at MEM_SIZE. -/
theorem test_mov_moffs :
    after [0xA1, 0x00, 0x03] (put (start.setSReg .ds 0x0010) 0x0400 [0xEF, 0xBE]) (fun t => t.reg16 .ax == 0xBEEF) &&
    after [0xA1, 0xFF, 0xFF] (put (put (start.setSReg .ds 0x1000) 0xFFFF [0xCD]) 0 [0xAB])
      (fun t => t.reg16 .ax == 0xABCD) = true := by
  decide +kernel

/-- DT9, DT10. -/
theorem test_xchg :
    after [0x87, 0xD9] (bx 0x1111 (cx 0x2222)) (fun t => t.reg16 .bx == 0x2222 && t.reg16 .cx == 0x1111) &&
    after [0x86, 0x07] (put (ax 0x0011 (bx 0x0200)) 0x0200 [0x22])
      (fun t => t.reg8 .al == 0x22 && t.memRead8 0x0200 == 0x11) = true := by
  decide +kernel

/-- DT11. -/
theorem test_xchg_ax :
    after [0x94] (ax 0x2000) (fun t => t.reg16 .ax == 0x1000 && t.reg16 .sp == 0x2000) = true := by
  decide +kernel

/-- DT12, DT13. -/
theorem test_lea :
    after [0x8D, 0x40, 0x05] ((bx 0x1000).setReg16 .si 0x0020) (fun t => t.reg16 .ax == 0x1025) &&
    after [0x8D, 0x47, 0xFF] start (fun t => t.reg16 .ax == 0xFFFF) = true := by
  decide +kernel

/-- DT14. -/
theorem test_lds :
    after [0xC5, 0x37] (put (bx 0x0500) 0x0500 [0x10, 0x00, 0x00, 0x20])
      (fun t => t.reg16 .si == 0x0010 && t.sreg .ds == 0x2000) = true := by
  decide +kernel

/-- DT15. -/
theorem test_les :
    after [0xC4, 0x3E, 0x00, 0x05] (put start 0x0500 [0x00, 0x00, 0x00, 0xB8])
      (fun t => t.reg16 .di == 0 && t.sreg .es == 0xB800) = true := by
  decide +kernel

/-- DT16. -/
theorem test_xlat :
    after [0xD7] (put (ax 0x0002 (bx 0xFFFF)) 0x0001 [0x41]) (fun t => t.reg8 .al == 0x41) = true := by
  decide +kernel

/-- DT17, DT18. -/
theorem test_push_reg :
    after [0x50] ((ax 0x1234).setReg16 .sp 0) (fun t => t.reg16 .sp == 0xFFFE && t.memRead16 0xFFFE == 0x1234) &&
    after [0x54] start (fun t => t.reg16 .sp == 0x0FFE && t.memRead16 0x0FFE == 0x0FFE) = true := by
  decide +kernel

/-- DT19. -/
theorem test_push_rm :
    after [0xFF, 0xF4] start (fun t => t.reg16 .sp == 0x0FFE && t.memRead16 0x0FFE == 0x1000) = true := by
  decide +kernel

/-- DT21. -/
theorem test_push_seg :
    after [0x0E] ((start.setSReg .cs 0xF000).setReg16 .sp 0x00FE)
      (fun t => t.reg16 .sp == 0x00FC && t.memRead16 0x00FC == 0xF000) = true := by
  decide +kernel

/-- DT20. -/
theorem test_pop_reg :
    after [0x5C] (put (start.setReg16 .sp 0x0FFE) 0x0FFE [0x00, 0x40]) (fun t => t.reg16 .sp == 0x4000) = true := by
  decide +kernel

/-- DT22. -/
theorem test_pop_seg :
    after [0x17] (put (start.setReg16 .sp 0x00FE) 0x00FE [0x00, 0x20])
      (fun t => t.sreg .ss == 0x2000 && t.reg16 .sp == 0x0100) = true := by
  decide +kernel

/-- DT23. -/
theorem test_pop_rm :
    after [0x8F, 0x06, 0x00, 0x02] (put (start.setReg16 .sp 0x00F0) 0x00F0 [0xFE, 0xCA])
      (fun t => t.memRead16 0x0200 == 0xCAFE && t.reg16 .sp == 0x00F2) = true := by
  decide +kernel

/-- DT24: the bits of PUSHF's word under the mask 0x0FD5 are the named flags. -/
theorem test_flags_image :
    let s := start.setFlags { start.flags with cf := true, zf := true, ifl := true }
    after [0x9C] s (fun t => t.reg16 .sp == 0x0FFE) = true ∧ s.flags.named = 0x0241 := by
  decide +kernel

/-- DT25, DT26. -/
theorem test_popf :
    after [0x9D] (put start 0x1000 [0xFF, 0xFF])
      (fun t => six t == [1, 1, 1, 1, 1, 1] && t.flags.tf && t.flags.ifl && t.flags.df && t.reg16 .sp == 0x1002) &&
    after [0x9D] (put (withCf start) 0x1000 [0x02, 0x00]) (fun t => six t == [0, 0, 0, 0, 0, 0]) = true := by
  decide +kernel

/-- DT27: AL is unchanged. -/
theorem test_lahf :
    match exec .lahf (ax 0x1234) with
    | .next t => t.reg8 .al = 0x34 ∧ t.ip = 0x0101
    | .fault _ => False
    | .refused _ => False := by
  simp only [exec, execLahf, State.flagsImage, State.drawWord, State.advance, State.reg8_setIp, State.reg8_setReg8]
  exact ⟨by decide +kernel, by decide +kernel⟩

/-- DT28. -/
theorem test_sahf :
    after [0x9E] (withDf (ax 0xFF00)) (fun t => six t == [1, 1, 1, 1, 1, 0] && t.flags.df) = true := by
  decide +kernel

/-- CT4, CT2. -/
theorem test_jmp_rel :
    after [0xEB, 0x80] (start.setIp 0x0010) (fun t => t.ip == 0xFF92) &&
    after [0xE9, 0x00, 0x80] (start.setIp 0x9000) (fun t => t.ip == 0x1003) = true := by
  decide +kernel

/-- CT5, CT6. -/
theorem test_jmp_rm :
    after [0xFF, 0xE3] (bx 0x4000) (fun t => t.ip == 0x4000 && t.sreg .cs == 0) &&
    after [0xFF, 0x26, 0x00, 0x02] (put start 0x0200 [0x00, 0x03]) (fun t => t.ip == 0x0300) = true := by
  decide +kernel

/-- CT7, CT8. -/
theorem test_jmp_far :
    after [0xEA, 0x00, 0x01, 0x00, 0x20] start (fun t => t.sreg .cs == 0x2000 && t.ip == 0x0100) &&
    after [0xFF, 0x2E, 0x00, 0x02] (put start 0x0200 [0x10, 0x00, 0x00, 0x30])
      (fun t => t.ip == 0x0010 && t.sreg .cs == 0x3000) = true := by
  decide +kernel

/-- The conditional jumps `70 10` to `7F 10` at IP = 0x0100 in a state: which are taken. -/
def taken (s : State) : List Nat :=
  (List.range 16).filter fun k => after [BitVec.ofNat 8 (0x70 + k), 0x10] s fun t => t.ip == 0x0112

def notTaken (s : State) : List Nat :=
  (List.range 16).filter fun k => after [BitVec.ofNat 8 (0x70 + k), 0x10] s fun t => t.ip == 0x0102

def flagsOf (cf zf sf ofl pf : Bool) : State :=
  start.setFlags { start.flags with cf := cf, zf := zf, sf := sf, ofl := ofl, pf := pf }

/-- J1: JO, JNB, JNZ, JA, JNS, JPO, JL, JLE. -/
theorem test_jcc_j1 :
    taken (flagsOf false false false true false) = [0, 3, 5, 7, 9, 11, 12, 14] ∧
    notTaken (flagsOf false false false true false) = [1, 2, 4, 6, 8, 10, 13, 15] := by
  decide +kernel

/-- J2: JO, JB, JNZ, JBE, JS, JPE, JGE, JG. -/
theorem test_jcc_j2 :
    taken (flagsOf true false true true true) = [0, 2, 5, 6, 8, 10, 13, 15] ∧
    notTaken (flagsOf true false true true true) = [1, 3, 4, 7, 9, 11, 12, 14] := by
  decide +kernel

/-- J3: JNO, JNB, JZ, JBE, JNS, JPE, JGE, JLE. -/
theorem test_jcc_j3 : taken (flagsOf false true false false true) = [1, 3, 4, 6, 9, 10, 13, 14] := by
  decide +kernel

/-- CT16, CT17. -/
theorem test_loop :
    after [0xE2, 0xFE] (cx 1) (fun t => t.reg16 .cx == 0 && t.ip == 0x0102) &&
    after [0xE2, 0xFE] (cx 0) (fun t => t.reg16 .cx == 0xFFFF && t.ip == 0x0100) = true := by
  decide +kernel

/-- CT18, CT19. -/
theorem test_loopz :
    after [0xE1, 0xFE] (withZf (cx 1)) (fun t => t.reg16 .cx == 0 && t.ip == 0x0102) &&
    after [0xE1, 0xFE] (withZf (cx 2)) (fun t => t.reg16 .cx == 1 && t.ip == 0x0100) = true := by
  decide +kernel

/-- CT20. -/
theorem test_loopnz :
    after [0xE0, 0xFE] (withZf (cx 2)) (fun t => t.reg16 .cx == 1 && t.ip == 0x0102) &&
    after [0xE0, 0xFE] (cx 2) (fun t => t.reg16 .cx == 1 && t.ip == 0x0100) = true := by
  decide +kernel

/-- CT21, CT22. -/
theorem test_jcxz :
    after [0xE3, 0x10] (cx 1) (fun t => t.reg16 .cx == 1 && t.ip == 0x0102) &&
    after [0xE3, 0x10] (cx 0) (fun t => t.ip == 0x0112) = true := by
  decide +kernel

/-- CT10, CT11. -/
theorem test_call :
    after [0xE8, 0xFD, 0xFF] start
      (fun t => t.memRead16 0x0FFE == 0x0103 && t.reg16 .sp == 0x0FFE && t.ip == 0x0100) &&
    after [0xFF, 0xD3] (bx 0x0500) (fun t => t.memRead16 0x0FFE == 0x0102 && t.ip == 0x0500) = true := by
  decide +kernel

/-- The example of 42_control_transfer.md R235; CT12. -/
theorem test_call_far :
    let s := (start.setSReg .cs 0x1000).setReg16 .sp 0x00FE
    after [0x9A, 0x00, 0x00, 0x00, 0x30] s
      (fun t => t.reg16 .sp == 0x00FA && t.memRead16 0x00FC == 0x1000 && t.memRead16 0x00FA == 0x0105 &&
        t.sreg .cs == 0x3000 && t.ip == 0) &&
    after [0xFF, 0x1E, 0x00, 0x02] (put s 0x0200 [0x00, 0x00, 0x00, 0x30])
      (fun t => t.memRead16 0x00FC == 0x1000 && t.memRead16 0x00FA == 0x0104 && t.sreg .cs == 0x3000) = true := by
  decide +kernel

/-- CT13, CT14. -/
theorem test_ret :
    after [0xC3] (put (start.setReg16 .sp 0xFFFE) 0xFFFE [0x23, 0x01]) (fun t => t.ip == 0x0123 && t.reg16 .sp == 0) &&
    after [0xC2, 0x04, 0x00] (put (start.setReg16 .sp 0x0FFA) 0x0FFA [0x03, 0x01])
      (fun t => t.ip == 0x0103 && t.reg16 .sp == 0x1000) = true := by
  decide +kernel

/-- The example of 42_control_transfer.md R237; CT15. -/
theorem test_retf :
    let s := put (start.setReg16 .sp 0x00FC) 0x00FC [0x05, 0x02, 0x00, 0x10]
    after [0xCB] (s.setIp 0x0300) (fun t => t.ip == 0x0205 && t.sreg .cs == 0x1000 && t.reg16 .sp == 0x0100) &&
    after [0xCA, 0x02, 0x00] (s.setIp 0x0300) (fun t => t.ip == 0x0205 && t.reg16 .sp == 0x0102) = true := by
  decide +kernel

/-- T1, T6. -/
theorem test_int :
    let s := ((put start 0x0084 [0x40, 0x00, 0x00, 0xF0]).setReg16 .sp 0x0200).setSReg .cs 0x1000
    after [0xCD, 0x21] (usedStack (s.setFlags { s.flags with cf := true, ifl := true }))
      (fun t => t.memRead16 0x01FC == 0x1000 && t.memRead16 0x01FA == 0x0102 && t.reg16 .sp == 0x01FA &&
        !t.flags.ifl && !t.flags.tf && t.flags.cf && t.sreg .cs == 0xF000 && t.ip == 0x0040) &&
    after [0xCD, 0xFF] (usedStack (put start 0x03FC [0x78, 0x56, 0x34, 0x12]))
      (fun t => t.sreg .cs == 0x1234 && t.ip == 0x5678) = true := by
  decide +kernel

/-- T2. -/
theorem test_int3 :
    after [0xCC] (usedStack (put start 0x000C [0x00, 0x03, 0x00, 0x00]))
      (fun t => t.memRead16 0x0FFA == 0x0101 && t.ip == 0x0300 && t.sreg .cs == 0) = true := by
  decide +kernel

/-- T4, CT24. -/
theorem test_into :
    let s := usedStack (put start 0x0010 [0x00, 0x04, 0x00, 0x00])
    after [0xCE] (s.setFlags { s.flags with ofl := true })
      (fun t => t.ip == 0x0400 && t.flags.ofl && t.memRead16 0x0FFA == 0x0101) &&
    after [0xCE] s (fun t => t.ip == 0x0101 && t.reg16 .sp == 0x1000) = true := by
  decide +kernel

/-- CT23. -/
theorem test_iret :
    after [0xCF] (put (start.setIp 0x0300) 0x1000 [0x00, 0x02, 0x00, 0x30, 0xFF, 0xFF])
      (fun t => t.ip == 0x0200 && t.sreg .cs == 0x3000 && six t == [1, 1, 1, 1, 1, 1] && t.flags.tf && t.flags.ifl &&
        t.flags.df && t.reg16 .sp == 0x1006) = true := by
  decide +kernel

/-- SI = 0x0200, DI = 0x0300, with bytes at both. -/
def strings (src dst : List Byte) : State :=
  put (put ((start.setReg16 .si 0x0200).setReg16 .di 0x0300) 0x0200 src) 0x0300 dst

def repeated (k : RepKind) (n : Word) (s : State) : State := (s.setRep (some k)).setReg16 .cx n

/-- X4, X2. -/
theorem test_movsb :
    after [0xA4] (strings [0xAA] []) (fun t => t.memRead8 0x0300 == 0xAA && t.reg16 .si == 0x0201 && t.reg16 .di == 0x0301) &&
    after [0xA4] (repeated .repz 3 ((strings [0xAA] []).setReg16 .di 0x0201))
      (fun t => t.memRead16 0x0202 == 0xAAAA && t.reg16 .cx == 0 && t.reg16 .si == 0x0203 && t.rep == none) = true := by
  decide +kernel

/-- X1; X15, the source word that runs on past the segment. -/
theorem test_movsw :
    after [0xA5] (withDf (strings [0xEF, 0xBE] []))
      (fun t => t.memRead16 0x0300 == 0xBEEF && t.reg16 .si == 0x01FE && t.reg16 .di == 0x02FE) &&
    after [0xA5] (put (put ((strings [] []).setReg16 .si 0xFFFF |>.setSReg .ds 0x1000) 0xFFFF [0xCD]) 0 [0xAB])
      (fun t => t.memRead16 0x0300 == 0xABCD && t.reg16 .si == 1) = true := by
  decide +kernel

/-- X5, X6. -/
theorem test_cmpsb :
    after [0xA6] (repeated .repz 3 (strings [0x41, 0x42, 0x43] [0x41, 0x42, 0x43]))
      (fun t => t.reg16 .cx == 0 && t.reg16 .si == 0x0203 && six t == [0, 1, 0, 1, 0, 0]) &&
    after [0xA6] (repeated .repz 5 (strings [0x61, 0x62, 0x63, 0x64, 0x65] [0x61, 0x62, 0x78, 0x64, 0x65]))
      (fun t => t.reg16 .cx == 2 && t.reg16 .di == 0x0303 && six t == [1, 1, 1, 0, 1, 0]) = true := by
  decide +kernel

/-- X7 at word width. -/
theorem test_cmpsw :
    after [0xA7] (repeated .repnz 4 (strings [1, 0, 2, 0, 3, 0] [9, 0, 9, 0, 3, 0]))
      (fun t => t.reg16 .cx == 1 && t.flags.zf && t.reg16 .si == 0x0206) = true := by
  decide +kernel

/-- X9. -/
theorem test_scasb :
    after [0xAE] (repeated .repnz 2 ((strings [] [0x61, 0x62]).setReg16 .ax 0x007A))
      (fun t => t.reg16 .cx == 0 && t.reg16 .di == 0x0302 && six t == [0, 1, 0, 0, 0, 0]) = true := by
  decide +kernel

/-- X10. -/
theorem test_scasw :
    after [0xAF] ((strings [] [2, 0]).setReg16 .ax 1)
      (fun t => six t == [1, 1, 1, 0, 1, 0] && t.reg16 .di == 0x0302 && t.reg16 .ax == 1) = true := by
  decide +kernel

/-- X11. -/
theorem test_lodsb :
    after [0xAC] (repeated .repz 2 ((strings [0x11, 0x22] []).setReg16 .ax 0x7700))
      (fun t => t.reg16 .ax == 0x7722 && t.reg16 .si == 0x0202 && t.reg16 .cx == 0) = true := by
  decide +kernel

/-- 44_string.md R295. -/
theorem test_lodsw :
    after [0xAD] (strings [0x11, 0x22] []) (fun t => t.reg16 .ax == 0x2211 && t.reg16 .si == 0x0202) = true := by
  decide +kernel

/-- X14: the destination side obeys the override. -/
theorem test_stosb :
    after [0xAA] ((((strings [] []).setReg16 .ax 0x005A).setSReg .es 0x0200).setOvr (some .cs))
      (fun t => t.memRead8 0x0300 == 0x5A && t.memRead8 0x2300 == 0 && t.ovr == none) = true := by
  decide +kernel

/-- X12. -/
theorem test_stosw :
    after [0xAB] (repeated .repz 4 (((strings [] []).setReg16 .ax 0x0720).setSReg .es 0x0B80))
      (fun t => t.memRead16 0xBB00 == 0x0720 && t.memRead16 0xBB06 == 0x0720 && t.memRead8 0xBB08 == 0 &&
        t.reg16 .di == 0x0308) = true := by
  decide +kernel

/-- F1 to F5. -/
theorem test_prefix_instructions :
    after [0x26] start (fun t => t.ovr == some .es && t.ip == 0x0101) &&
    after [0x2E] (start.setOvr (some .es)) (fun t => t.ovr == some .cs) &&
    after [0x36] start (fun t => t.ovr == some .ss) && after [0x3E] start (fun t => t.ovr == some .ds) &&
    after [0xF3] (start.setRep (some .repnz)) (fun t => t.rep == some .repz) &&
    after [0xF2] start (fun t => t.rep == some .repnz) &&
    after [0xF0] (start.setOvr (some .es)) (fun t => t.ovr == some .es && t.ip == 0x0101) &&
    after [0x90] (start.setOvr (some .es)) (fun t => t.ovr == none) = true := by
  decide +kernel

/-- F6 to F8. -/
theorem test_flag_control :
    after [0xF8] (withCf start) (fun t => !t.flags.cf) && after [0xF9] start (fun t => t.flags.cf) &&
    after [0xF5] (withCf start) (fun t => !t.flags.cf) && after [0xFD] start (fun t => t.flags.df) &&
    after [0xFC] (withDf start) (fun t => !t.flags.df) && after [0xFB] start (fun t => t.flags.ifl) &&
    after [0xFA] (start.setFlags { start.flags with ifl := true }) (fun t => !t.flags.ifl) = true := by
  decide +kernel

/-- F9 to F13. -/
theorem test_misc :
    after [0x90] start (fun t => t.ip == 0x0101) && after [0x9B] start (fun t => t.ip == 0x0101) &&
    after [0xD9, 0x06, 0x34, 0x12] start (fun t => t.ip == 0x0104) && after [0xDB, 0xE3] start (fun t => t.ip == 0x0102) &&
    after [0xF4] (start.setIp 0x0109) (fun t => t.halted && t.ip == 0x010A) = true := by
  decide +kernel

/-- F10: a halted core changes only the clock. -/
theorem test_halted :
    after [0xB0, 0x80] (start.setHalted true) (fun t => t.halted && t.ip == 0x0100 && t.reg16 .ax == 0 && t.clock.cycles == 1)
      = true := by
  decide +kernel

/-- F14, F15. -/
theorem test_in :
    after [0xE4, 0x99] (ax 0x1200) (fun t => t.reg16 .ax == 0x12FF) &&
    after [0xED] (dx 0x03D4) (fun t => t.reg16 .ax == 0xFFFF) = true := by
  decide +kernel

/-- F16, F18. -/
theorem test_out :
    after [0xE6, 0x43] (ax 0x0036)
      (fun t => t.pit.ch0.mode == .squareWave && t.pit.ch0.rl == .lsbMsb && t.pit.ch0.output && !t.pit.ch0.bcd) &&
    after [0xEE] (ax 0x0055 (dx 0x1234)) (fun t => t.ip == 0x0101 && t.pit == start.pit) = true := by
  decide +kernel

/-- A count channel programmed "LSB then MSB", mode 3, that has taken its low byte. -/
def halfLoaded : State :=
  start.setChannel .ch0
    { PitChannel.reset with
      mode := .squareWave, output := true, reload := 0x0034, writeSeq := true }

/-- S10: the second reload byte arms the timer; the gate is high. -/
theorem test_pit_reload :
    after [0xE6, 0x40] (halfLoaded.setReg16 .ax 0x0012)
      (fun t => t.pit.ch0.reload == 0x1234 && t.pit.ch0.running && t.clock.timers.length == 1) = true := by
  decide +kernel

/-- S10: the firing of a square-wave channel. -/
theorem test_pit_fire :
    let t := (start.setChannel .ch0 { PitChannel.reset with mode := .squareWave, output := true, reload := 0x1234 }).fire
      .ch0 1000
    t.pit.ch0.output = false ∧ t.pit.ch0.outputNotices = 1 ∧
      t.clock.timers = [{ trigger := 1000 + 838 * 4660, callback := .pit .ch0 }] := by
  decide +kernel

/-- The mode table of R404: a software-triggered strobe pulses once, so a gate that falls and rises afterwards arms no
second one; before terminal count it arms the one to come; a channel without a count has nothing to resume. -/
theorem test_pit_strobe_once :
    let loaded := start.setChannel .ch0
      { PitChannel.reset with
        mode := .softwareStrobe, output := true, reload := 100, counter := 100, running := true, phase := .awaiting }
    let regate := fun s : State => (s.setGate .ch0 false).setGate .ch0 true
    ((loaded.fire .ch0 1000).pit.ch0.outputNotices = 2 ∧ (regate (loaded.fire .ch0 1000)).pit.ch0.outputNotices = 2) ∧
      (regate (loaded.fire .ch0 1000)).clock.timers.length = 0 ∧ (regate loaded).clock.timers.length = 1 ∧
      (regate start).clock.timers.length = 0 := by
  decide +kernel

/-- R423, R396, R411: boot registers the vertical sync and gives the renderer its size. -/
theorem test_boot :
    (match powerOn (some vectorConfig) with
      | .next s => s.clock.timers.map (·.callback) == [.verticalSync] && s.video.size == some (640, 200) &&
          s.video.frames == 0
      | _ => false) = true := by
  decide +kernel

/-- R410, R411: a vertical sync hands one frame of the window to the renderer and registers the next; a device that scans
in every cycle does so at the end of a step. A frame of 2 by 3 pixels has 24 bytes. -/
theorem test_video_scan :
    let cfg := { vectorConfig with videoBase := 0x100, videoSize := 3, videoScan := .verticalSync 50 }
    let s := put { start with cfg := cfg } 0x100 [0x41, 0x07]
    let t := s.verticalSync 1000
    t.video.last.map (·.window) = some [0x41, 0x07, 0x00] ∧ t.video.frames = 1 ∧
      t.clock.timers = [{ trigger := 1050, callback := .verticalSync }] ∧
      { s with cfg := { cfg with videoScan := .eachCycle } }.serviceDevices.video.frames = 1 ∧
      ({ window := [], width := 2, height := 3, draw := 0 } : Frame).pixelBuffer.length = 24 := by
  decide +kernel

/-- R39, D10: an inspection leaves the block as it is but takes a draw of its own. -/
theorem test_inspect_draws :
    (start.inspect 0 2).2 = { start with draws := start.draws + 1 } ∧ (start.inspect 0 2).1.bytes = [0, 0] :=
  ⟨rfl, rfl⟩

/-- S11: the firing condition at time 1000 with a half-interval of 20. -/
theorem test_timer_due :
    ([999, 1000, 1019, 1020].map fun x => isDue 1000 20 { trigger := x, callback := .pit .ch0 }) = [true, true, true, false] := by
  decide +kernel

/-- F17, E13, E14, CT9: the faults. -/
theorem test_faults :
    (faults [0xE4, 0x43] .devicePortError && faults [0x8D, 0xC0] .addressingNotImplemented &&
      faults [0x8C, 0xE0] .addressingNotImplemented && faults [0xFF, 0xEB] .addressingNotImplemented) = true := by
  decide +kernel

/-- F19, E15. -/
theorem test_not_implemented :
    (refuses [0x0F] (.notImplemented 0x0F) && refuses [0xFF, 0xF8] (.notImplemented 0xFF)) = true := by
  decide +kernel

/-- Construction with the configuration fails with ConfigError. -/
def badConfig (c : Option Config) : Bool :=
  match construct c with
  | .next _ => false
  | .fault f => f == .configError
  | .refused _ => false

/-- S12. -/
theorem test_construct :
    (badConfig none && badConfig (some { Config.standard with memSize := 1023 }) &&
      badConfig (some { Config.standard with memSize := 1048577 }) && !badConfig (some vectorConfig)) = true := by
  decide +kernel

/-- S2 and the top of the linear address space. -/
theorem test_linear_address : lin 0x258C 0x0012 = 0x0258D2 ∧ lin 0xFFFF 0xFFFF = 0x10FFEF := by
  decide

/-- A word placed for the host's question runs as the next step. -/
theorem test_fetch_word :
    (match step (State.reset.withFetchWord 16 0xB412) with
      | .next t => t.reg8 .ah == 0x12
      | _ => false) = true := by
  decide +kernel

/-! ### Witnesses: concrete states and operands that meet the hypotheses of the statements of Obligations.lean -/

/-- A next state of an outcome with the property. -/
def answers (o : Outcome State) (good : State → Bool) : Bool :=
  match o with
  | .next t => good t
  | .fault _ => false
  | .refused _ => false

theorem next_of_answers {o : Outcome State} {good : State → Bool} (h : answers o good = true) :
    ∃ t, o = .next t ∧ good t = true := by
  cases o with
  | next t => exact ⟨t, rfl, h⟩
  | fault _ => cases h
  | refused _ => cases h

theorem resetWith_inv (cfg : Config) (h : cfg.valid = true) : (State.resetWith cfg).Inv :=
  ⟨h, ⟨rfl, rfl⟩, ⟨le_refl _, le_refl _, le_refl _, rfl⟩⟩

theorem start_inv : start.Inv :=
  ⟨by decide +kernel, ⟨rfl, rfl⟩, ⟨le_refl _, le_refl _, le_refl _, rfl⟩⟩

/-- `start` with other registers, segment registers, flags and latches is as good. -/
theorem dressed_inv (r : Regs) (sr : SRegs) (f : Flags) (o : Option SReg) (k : Option RepKind) :
    ({ start with regs := r, sregs := sr, flags := f, ovr := o, rep := k } : State).Inv :=
  ⟨start_inv.config, ⟨rfl, rfl⟩, ⟨le_refl _, le_refl _, le_refl _, rfl⟩⟩

theorem test_witness_DecodeInvertsEncode :
    ([.add (.evIbSx (.mem (.disp16 .bpDi 0xFFFF)) 0x80), .esc 7 7 (.reg .di), .popRm 7 (.mem (.direct 0)),
      .unimplGroup 0xD3 0xF7, .xchgAx .di] : List Instr).all (fun i => i.wf) = true := by
  decide

theorem test_witness_EncodeInvertsDecode : decode [0x83, 0xE3, 0xF0, 0x01] = .ok (.and (.evIbSx (.reg .bx) 0xF0), [0x01]) := by
  rfl

theorem test_witness_DecodeIsTotalWithLength :
    6 ≤ ([0x81, 0xB6, 2, 1, 0x34, 0x12] : List Byte).length ∧
    decode [0x81, 0xB6, 2, 1, 0x34, 0x12] = .ok (.xor (.evIv (.mem (.disp16 .bp 0x0102)) 0x1234), []) := by
  exact ⟨by decide, rfl⟩

/-- Both sides of the equivalence: a slot that is implemented, and one that is not. -/
theorem test_witness_UnimplementedEncodingsAreThoseListed :
    4 ≤ ([0, 0, 0, 0] : List Byte).length ∧
    decode [0xFE, 0xC8, 0, 0, 0, 0] = .ok (.dec (.eb (.reg .al)), [0, 0, 0, 0]) ∧
    decode [0xFE, 0xD0, 0, 0, 0, 0] = .ok (.unimplGroup 0xFE 0xD0, [0, 0, 0, 0]) ∧
    decode [0x6F, 0, 0, 0, 0, 0] = .ok (.unimplOp 0x6F, [0, 0, 0, 0, 0]) ∧
    decode [0x70, 0, 0, 0, 0, 0] = .ok (.jo 0, [0, 0, 0, 0]) := by
  exact ⟨by decide, rfl, rfl, rfl, rfl⟩

/-- MOV AH,12 at the end of the code segment, so that its second byte is fetched from the segment's start. -/
theorem test_witness_StepRunsDecodedInstruction :
    let s := put (put (start.setIp 0xFFFF) 0xFFFF [0xB4]) 0 [0x12]
    s.halted = false ∧ (Instr.movRegImm (.r8 .ah 0x12)).wf = true ∧ encode (.movRegImm (.r8 .ah 0x12)) = [0xB4, 0x12] ∧
    s.memRead8 ((s.sreg .cs).toNat * 16 + (s.ip + BitVec.ofNat 16 0).toNat) = 0xB4 ∧
    s.memRead8 ((s.sreg .cs).toNat * 16 + (s.ip + BitVec.ofNat 16 1).toNat) = 0x12 := by
  decide +kernel

theorem test_witness_HaltedStepExecutesNothing : (start.setHalted true).halted = true := rfl

/-- Each of the seven prefix bytes, and an instruction that is none of them. -/
theorem test_witness_LatchesAfterStep :
    start.halted = false ∧
    ([(0x26, .segEs), (0x2E, .segCs), (0x36, .segSs), (0x3E, .segDs), (0xF3, .repz), (0xF2, .repnz), (0xF0, .lock),
      (0x90, .nop)] : List (Byte × Instr)).all (fun c =>
        let s := put start 0x0100 [c.1]
        (match decode s.fetchWindow with
          | .ok (i, _) => i == c.2
          | .error _ => false) && answers (step s) (fun _ => true)) = true := by
  decide +kernel

theorem test_witness_StepKeepsInvariant : start.Inv ∧ ∃ t, step start = .next t ∧ t.ip = 0x0102 := by
  refine ⟨start_inv, ?_⟩
  obtain ⟨t, h, g⟩ := next_of_answers (o := step start) (good := fun t => t.ip == 0x0102) (by decide +kernel)
  exact ⟨t, h, by simpa using g⟩

/-- The ends of the range of memory sizes. -/
theorem test_witness_ConstructedStateMeetsInvariant :
    Config.standard.valid = true ∧ ({ Config.standard with memSize := 1024 } : Config).valid = true ∧
      Config.standard.memSize = 1048576 ∧ .videoAdapter ∈ Config.standard.devices := by
  decide +kernel

theorem test_witness_ConstructionLeavesSpecifiedValues :
    Config.standard.valid = true ∧ ({ Config.standard with memSize := 1023 } : Config).memSize < 1024 ∧
      1048576 < ({ Config.standard with memSize := 1048577 } : Config).memSize := by
  decide +kernel

theorem test_witness_EveryStepTicksOnce : ∃ t, step start = .next t :=
  (next_of_answers (o := step start) (good := fun _ => true) (by decide +kernel)).imp fun _ h => h.1

theorem test_witness_OnlyPortsReachDevices :
    (answers (exec .hlt start) (fun t => t.halted) && answers (exec (.inImm .byte 0x99) start) (fun _ => true) &&
      answers (exec (.outImm .byte 0x43) (ax 0x36)) (fun t => t.pit != start.pit)) = true ∧
    Instr.hlt.usesPorts = false ∧ (Instr.inImm .byte 0x99).usesPorts = true := by
  decide +kernel

/-- Both sides of both equivalences, at the neighbouring port and selector. -/
theorem test_witness_FaultsAreExactlyThese :
    (Instr.movToSeg 4 (.reg .ax)).noAddressing = true ∧ (Instr.movToSeg 3 (.reg .ax)).noAddressing = false ∧
    (Instr.inDx .word).inPort (dx 0x43) = some 0x43 ∧ start.timerPort 0x43 3 ∧ ¬ start.timerPort 0x44 3 := by
  refine ⟨rfl, rfl, rfl, ⟨0x40, rfl, rfl⟩, ?_⟩
  rintro ⟨b, h, g⟩
  cases h
  exact absurd g (by decide)

/-- A word at the last index, whose high byte wraps to index 0. -/
theorem test_witness_StoredWordReadsBack : start.Inv ∧ start.index 65535 = 65535 ∧ start.index 65536 = 0 :=
  ⟨start_inv, by decide +kernel, by decide +kernel⟩

theorem test_witness_AddAndAdcResult :
    (withCf start).Inv ∧ (AluForm.evIbSx (.mem (.base .bx)) 0xFF).dest (withCf start) = .wordAt 0 :=
  ⟨dressed_inv _ _ _ _ _, by decide +kernel⟩

theorem test_witness_SubSbbCmpResult :
    (withCf start).Inv ∧ (AluForm.gbEb .ah (.mem (.direct 0xFFFF))).dest (withCf start) = .reg8 .ah :=
  ⟨dressed_inv _ _ _ _ _, rfl⟩

theorem test_witness_OneOperandResult :
    start.Inv ∧ (IncForm.ev (.mem (.direct 0xFFFF))).dest start = .wordAt 0xFFFF ∧ (UnForm.eb (.reg .bh)).dest start = .reg8 .bh :=
  ⟨start_inv, by decide +kernel, rfl⟩

/-- Each clause at the largest quotient that fits. -/
theorem test_witness_QuotientResult :
    (let s := ax 0x00FF (bx 1)
     (s.dest8 (.reg .bl)).read s ≠ 0 ∧ (s.reg16 .ax).toNat / (s.dest8 (.reg .bl)).read s = 255) ∧
    (let s := ax 0xFFFF (bx 1)
     (s.dest16 (.reg .bx)).read s ≠ 0 ∧
       ((s.reg16 .dx).toNat * 65536 + (s.reg16 .ax).toNat) / (s.dest16 (.reg .bx)).read s = 65535) ∧
    (let s := ax 0xFF81 (bx 1)
     signedOf 8 ((s.dest8 (.reg .bl)).read s) ≠ 0 ∧
       (signedOf 16 (s.reg16 .ax).toNat).tdiv (signedOf 8 ((s.dest8 (.reg .bl)).read s)) = -127) ∧
    (let s := ax 0x7FFF (bx 1)
     signedOf 16 ((s.dest16 (.reg .bx)).read s) ≠ 0 ∧
       (signedOf 32 ((s.reg16 .dx).toNat * 65536 + (s.reg16 .ax).toNat)).tdiv
         (signedOf 16 ((s.dest16 (.reg .bx)).read s)) = 32767) := by
  decide +kernel

/-- Each clause: a divisor of 0, and the smallest quotients that do not fit. -/
theorem test_witness_DivideErrorTraps :
    start.Inv ∧ (start.dest8 (.reg .bl)).read start = 0 ∧ (start.dest16 (.reg .bx)).read start = 0 ∧
    (let s := ax 0x0100 (bx 1)
     s.Inv ∧ (s.reg16 .ax).toNat / (s.dest8 (.reg .bl)).read s = 256) ∧
    (let s := dx 1 (bx 1)
     s.Inv ∧ ((s.reg16 .dx).toNat * 65536 + (s.reg16 .ax).toNat) / (s.dest16 (.reg .bx)).read s = 65536) ∧
    (let s := ax 0xFF80 (bx 1)
     s.Inv ∧ (signedOf 16 (s.reg16 .ax).toNat).tdiv (signedOf 8 ((s.dest8 (.reg .bl)).read s)) = -128) ∧
    (let s := ax 0x8000 (bx 1)
     s.Inv ∧ (signedOf 32 ((s.reg16 .dx).toNat * 65536 + (s.reg16 .ax).toNat)).tdiv
       (signedOf 16 ((s.dest16 (.reg .bx)).read s)) = 32768) :=
  ⟨start_inv, by decide +kernel, by decide +kernel, ⟨dressed_inv _ _ _ _ _, by decide +kernel⟩,
    ⟨dressed_inv _ _ _ _ _, by decide +kernel⟩, ⟨dressed_inv _ _ _ _ _, by decide +kernel⟩,
    ⟨dressed_inv _ _ _ _ _, by decide +kernel⟩⟩

theorem test_witness_DigitAndSignConversion : (1 : Byte) ≠ 0 ∧ (0xFF : Byte) ≠ 0 := by
  decide

theorem test_witness_LogicResult :
    start.Inv ∧ (AluForm.ebIbAlt (.mem (.disp8 .bp 0xFF)) 0x80).dest start = .byteAt 0xFFFF ∧
      (TestForm.axIv 0x8000).right start = 0x8000 :=
  ⟨start_inv, by decide +kernel, rfl⟩

/-- Counts of 1, of the width, and of 255. -/
theorem test_witness_ShiftResult :
    start.Inv ∧ (ShiftForm.eb1 (.mem (.base .bx))).count start = 1 ∧ (cx 16).Inv ∧ (ShiftForm.evCl (.reg .ax)).count (cx 16) = 16 ∧
      (cx 255).Inv ∧ (ShiftForm.ebCl (.reg .cl)).count (cx 255) = 255 :=
  ⟨start_inv, rfl, dressed_inv _ _ _ _ _, rfl, dressed_inv _ _ _ _ _, rfl⟩

theorem test_witness_RotateResult :
    start.Inv ∧ (ShiftForm.ev1 (.reg .ax)).count start = 1 ∧ (cx 8).Inv ∧ (ShiftForm.ebCl (.reg .al)).count (cx 8) % 8 = 0 :=
  ⟨start_inv, rfl, dressed_inv _ _ _ _ _, rfl⟩

theorem test_witness_RotateThroughCarryResult :
    (withCf start).Inv ∧ (ShiftForm.ev1 (.reg .ax)).count (withCf start) = 1 ∧ (withCf (cx 9)).Inv ∧
      (ShiftForm.ebCl (.reg .al)).count (withCf (cx 9)) % 9 = 0 :=
  ⟨dressed_inv _ _ _ _ _, rfl, dressed_inv _ _ _ _ _, rfl⟩

/-- CL = 0 with CH not 0. -/
theorem test_witness_ZeroCountChangesNothing : (ShiftForm.evCl (.reg .cx)).count (cx 0xFF00) = 0 := rfl

theorem test_witness_MovAndXlatResult : start.Inv ∧ start.dest16 (.mem (.direct 0xFFFF)) = .wordAt 0xFFFF :=
  ⟨start_inv, by decide +kernel⟩

/-- The selectors on both sides of the two clauses' border. -/
theorem test_witness_SegmentMoveResult :
    start.Inv ∧ ((3 : BitVec 3), SReg.ds) ∈ [((0 : BitVec 3), SReg.es), (1, .cs), (2, .ss), (3, .ds)] ∧
      ¬ 4 ≤ (3 : BitVec 3).toNat ∧ 4 ≤ (4 : BitVec 3).toNat ∧ 4 ≤ (7 : BitVec 3).toNat :=
  ⟨start_inv, by decide, by decide, by decide, by decide⟩

theorem test_witness_ExchangeResult :
    start.Inv ∧ start.dest8 (.reg .al) = .reg8 .al ∧ start.dest8 (.mem (.direct 0)) = .byteAt 0 :=
  ⟨start_inv, rfl, by decide +kernel⟩

theorem test_witness_DataAddressComputation :
    start.ovr = none ∧ (start.setOvr (some .ss)).ovr = some .ss ∧ BaseKind.bp ∈ [BaseKind.bpSi, .bpDi, .bp] ∧
      BaseKind.bx ∉ [BaseKind.bpSi, .bpDi, .bp] := by
  decide +kernel

/-- An empty stack at offset 0, where SP wraps. -/
theorem test_witness_PushResult : (start.setReg16 .sp 0).Inv ∧ (start.setReg16 .sp 0).reg16 .sp - 2 = 0xFFFE :=
  ⟨dressed_inv _ _ _ _ _, rfl⟩

theorem test_witness_PopResult :
    (start.setReg16 .sp 0xFFFE).Inv ∧ Reg16.ax ≠ .sp ∧ (RM.reg .ax : RM16) ≠ .reg .sp ∧ (RM.mem (.base .bx) : RM16) ≠ .reg .sp :=
  ⟨dressed_inv _ _ _ _ _, by decide, by decide, by decide⟩

theorem test_witness_FlagTransferResult : (withZf start).Inv ∧ (withZf start).flags.zf = true :=
  ⟨dressed_inv _ _ _ _ _, rfl⟩

/-- Signed and unsigned order disagree on 0x80 and 0x7F. -/
theorem test_witness_JumpsAfterCompare :
    answers (exec (.cmp (.alIb 0x7F)) (ax 0x0080)) (fun t => !t.flags.cf && t.flags.sf != t.flags.ofl) = true := by
  decide +kernel

/-- CX = 1, where LOOP ends, CX = 0, where it wraps. -/
theorem test_witness_LoopInstructions :
    (Instr.loop 0xFE, true) ∈ [(Instr.loop 0xFE, true), (.loopz 0xFE, false), (.loopnz 0xFE, true)] ∧
      (cx 1).reg16 .cx = 1 ∧ (cx 0).reg16 .cx ≠ 1 := by
  decide +kernel

theorem test_witness_CallResult : (start.setReg16 .sp 2).Inv ∧ (start.setReg16 .sp 2).reg16 .sp - 4 = 0xFFFE :=
  ⟨dressed_inv _ _ _ _ _, rfl⟩

/-- Both values of OF. -/
theorem test_witness_SoftwareInterruptsTrap :
    let s := start.setFlags { start.flags with ofl := true }
    s.Inv ∧ s.flags.ofl = true ∧ start.Inv ∧ start.flags.ofl = false :=
  ⟨dressed_inv _ _ _ _ _, rfl, start_inv, rfl⟩

/-- The least SP at which the stack does not wrap. -/
theorem test_witness_InterruptReturnUndoesInterrupt :
    let s := start.setReg16 .sp 6
    s.Inv ∧ s.ovr = none ∧ 6 ≤ (s.reg16 .sp).toNat ∧ ∃ t u, exec (.int 0x21) s = .next t ∧ exec .iret t = .next u :=
  ⟨dressed_inv _ _ _ _ _, rfl, by decide +kernel, _, _, rfl, rfl⟩

theorem test_witness_StringElementResult :
    (withDf start).Inv ∧ (withDf start).rep = none ∧ (withDf start).indexStep 2 = 0xFFFE :=
  ⟨dressed_inv _ _ _ _ _, rfl, rfl⟩

theorem test_witness_RepetitionIsIteratedElement :
    (repeated .repnz 0 start).rep = some .repnz ∧ (repeated .repz 0xFFFF start).rep = some .repz ∧
      ((repeated .repz 0xFFFF start).reg16 .cx).toNat = 65535 ∧ Instr.stosw ∈ [Instr.movsb, .movsw, .lodsb, .lodsw, .stosb, .stosw] ∧
      Instr.scasw ∈ [Instr.cmpsb, .cmpsw, .scasb, .scasw] :=
  ⟨rfl, rfl, rfl, by decide, by decide⟩

theorem test_witness_RepeatedStoreFills :
    (repeated .repz 0xFFFF start).Inv ∧ (repeated .repz 0xFFFF start).rep = some .repz :=
  ⟨dressed_inv _ _ _ _ _, rfl⟩

/-- The ports on both sides of the timer's four, immediate and in DX. -/
theorem test_witness_UnclaimedPortsAreBenign :
    start.unclaimed (BitVec.ofNat 16 (0x3F : Byte).toNat) ∧ start.unclaimed (BitVec.ofNat 16 (0x44 : Byte).toNat) ∧
      (dx 0x0044).unclaimed ((dx 0x0044).reg16 .dx) := by
  refine ⟨?_, ?_, ?_⟩ <;> intro b h <;> cases h <;> decide

/-- A channel with a latched count. -/
def latchedState (rl : ReadLoad) (readSeq : Bool) : State :=
  (dx 0x42).setChannel .ch2 { PitChannel.reset with rl := rl, readSeq := readSeq, latched := 0x1234, latchValid := true }

/-- Each read/load mode, and both bytes of "LSB then MSB"; an immediate port and DX. -/
theorem test_witness_LatchedCountIsRead :
    ([latchedState .lsb false, latchedState .msb false, latchedState .lsbMsb false, latchedState .lsbMsb true].all fun s =>
      (s.pit.channel .ch2).latchValid && (s.pit.channel .ch2).rl != .latch) = true ∧
    (latchedState .lsb false).timerPort ((latchedState .lsb false).reg16 .dx) 2 ∧
    (latchedState .lsb false).timerPort (BitVec.ofNat 16 (0x42 : Byte).toNat) 2 ∧
    (2, Channel.ch2) ∈ [(0, Channel.ch0), (1, .ch1), (2, .ch2)] :=
  ⟨by decide +kernel, ⟨0x40, rfl, rfl⟩, ⟨0x40, rfl, rfl⟩, by decide⟩

/-- The first count port, the last, and the control port; a channel with no latched count, running or not. -/
theorem test_witness_TimerPortAccessCompletes :
    start.timerPort (BitVec.ofNat 16 (0x40 : Byte).toNat) 0 ∧ start.timerPort (BitVec.ofNat 16 (0x42 : Byte).toNat) 2 ∧
      (dx 0x43).timerPort ((dx 0x43).reg16 .dx) 3 ∧ (0, Channel.ch0) ∈ [(0, Channel.ch0), (1, .ch1), (2, .ch2)] ∧
      (start.pit.channel .ch0).latchValid = false ∧ (start.pit.channel .ch0).running = false ∧
      ((start.setChannel .ch0 { PitChannel.reset with running := true }).pit.channel .ch0).running = true :=
  ⟨⟨0x40, rfl, rfl⟩, ⟨0x40, rfl, rfl⟩, ⟨0x40, rfl, rfl⟩, by decide, rfl, rfl, rfl⟩

/-- Channel 0 with read/load 1, channel 2 with read/load 3 and mode 7, and the latch command for channel 2, which runs or
does not. -/
theorem test_witness_ControlWordProgramsChannel :
    let s := dx 0x43 (ax 0x0010)
    let u := dx 0x43 (ax 0x00BF)
    let v := dx 0x43 (ax 0x0080)
    let w := v.setChannel .ch2 { PitChannel.reset with running := true }
    (s.reg8 .al).toNat / 64 = 0 ∧ (s.reg8 .al).toNat / 16 % 4 ≠ 0 ∧ s.timerPort (s.reg16 .dx) 3 ∧
      (u.reg8 .al).toNat / 64 = 2 ∧ (u.reg8 .al).toNat / 16 % 4 ≠ 0 ∧
      s.timerPort (BitVec.ofNat 16 (0x43 : Byte).toNat) 3 ∧
      (v.reg8 .al).toNat / 64 = 2 ∧ (v.reg8 .al).toNat / 16 % 4 = 0 ∧ (v.pit.channel .ch2).running = false ∧
      (w.reg8 .al).toNat / 16 % 4 = 0 ∧ (w.pit.channel .ch2).running = true ∧ (w.pit.channel .ch2).bcd = false :=
  ⟨by decide +kernel, by decide +kernel, ⟨0x40, rfl, rfl⟩, by decide +kernel, by decide +kernel, ⟨0x40, rfl, rfl⟩,
    by decide +kernel, by decide +kernel, rfl, by decide +kernel, rfl, rfl⟩

/-- A channel that takes a byte; AL = 0 gives the reload value 0. -/
def reloading (rl : ReadLoad) (writeSeq gate : Bool) : State :=
  (dx 0x40).setChannel .ch0 { PitChannel.reset with rl := rl, writeSeq := writeSeq, gate := gate }

/-- Completed reloads with the gate high and low, and a first byte. -/
theorem test_witness_ReloadArmsChannelTimer :
    ([reloading .lsb true true, reloading .msb true true, reloading .lsbMsb true true,
        reloading .lsbMsb true false].all fun s =>
      !(s.pit.channel .ch0).bcd && (s.pit.channel .ch0).rl != .latch &&
        !((s.pit.channel .ch0).rl == .lsbMsb && !(s.pit.channel .ch0).writeSeq)) = true ∧
    ((reloading .lsbMsb false true).pit.channel .ch0).rl = .lsbMsb ∧
    ((reloading .lsbMsb false true).pit.channel .ch0).writeSeq = false ∧
    (reloading .lsb true true).timerPort ((reloading .lsb true true).reg16 .dx) 0 ∧
    start.timerPort (BitVec.ofNat 16 (0x40 : Byte).toNat) 0 :=
  ⟨by decide +kernel, rfl, rfl, ⟨0x40, rfl, rfl⟩, ⟨0x40, rfl, rfl⟩⟩

/-- A binary count with a reload value of 0, which stands for 65536, in a mode that repeats, and a mode that does not. -/
theorem test_witness_SquareWaveFires :
    let s := start.setChannel .ch1 { PitChannel.reset with mode := .squareWave }
    (s.pit.channel .ch1).mode = .squareWave ∧ (s.pit.channel .ch1).bcd = false ∧
      (s.pit.channel .ch1).reload.toNat = 0 ∧
      ¬ ((start.pit.channel .ch1).mode = .rateGenerator ∨ (start.pit.channel .ch1).mode = .squareWave) := by
  decide +kernel

/-- A registry with a timer that is due, and one of channel 1 exactly half a check-interval after the time of the scan. -/
def twoTimers (callback : Callback) : State :=
  start.setClock { start.clock with
    cyclePeriodNS := 10
    timers :=
      [{ trigger := -1, callback := callback },
        { trigger := start.wallNS + wallAdvance start.draws + (start.cfg.timerCheckCycles : Rat) * 10 / 2
          callback := .pit .ch1 }] }

/-- Ticks that are no scan, a scan, and a scan with a synchronisation; a registry with one due timer, of channel 0 or the
vertical sync, while channel 1 has none. -/
theorem test_witness_TimersFireAtScansOnly :
    ((start.clock.cycles + 1) % start.cfg.timerCheckCycles ≠ 0 ∧
      ([3, 7].all fun n => (n + 1) % start.cfg.timerCheckCycles == 0) = true) ∧
    ∀ callback ∈ [Callback.pit .ch0, .verticalSync],
      let s := twoTimers callback
      let now := s.wallNS + wallAdvance s.draws
      let due := fun tm : Timer =>
        now > tm.trigger ∨ tm.trigger < now + (s.cfg.timerCheckCycles : Rat) * s.clock.cyclePeriodNS / 2
      timersRising s.clock.timers = true ∧
        ∃ tm ∈ s.clock.timers, tm.callback = callback ∧ due tm ∧ (∀ tm' ∈ s.clock.timers, due tm' → tm' = tm) ∧
          (∀ tm' ∈ s.clock.timers, tm'.callback = .pit .ch1 → ¬ due tm') := by
  have pos := wallAdvance_nonneg start.draws
  have half : (0 : Rat) ≤ (start.cfg.timerCheckCycles : Rat) * 10 / 2 := by positivity
  have wall : start.wallNS = 0 := rfl
  refine ⟨by decide +kernel, fun callback hc => ?_⟩
  intro s now due
  have hnow : now = start.wallNS + wallAdvance start.draws := rfl
  have far : ¬ due { trigger := start.wallNS + wallAdvance start.draws + (start.cfg.timerCheckCycles : Rat) * 10 / 2
                     callback := .pit .ch1 } := by
    show ¬ (now > _ ∨ _ < now + (start.cfg.timerCheckCycles : Rat) * 10 / 2)
    rw [hnow]
    rintro (h | h)
    · simp only [gt_iff_lt] at h; linarith
    · exact lt_irrefl _ h
  refine ⟨?_, { trigger := -1, callback := callback }, by simp [s, twoTimers], rfl, .inl ?_, ?_, ?_⟩
  · show (decide ((-1 : Rat) < _) && true) = true
    rw [wall]; simp only [Bool.and_true, decide_eq_true_eq]; linarith
  · show (-1 : Rat) < now
    rw [hnow, wall]; linarith
  · intro tm' h hd
    simp only [s, twoTimers, State.setClock, List.mem_cons, List.not_mem_nil, or_false] at h
    rcases h with rfl | rfl
    · rfl
    · exact absurd hd far
  · intro tm' h hc'
    simp only [s, twoTimers, State.setClock, List.mem_cons, List.not_mem_nil, or_false] at h
    rcases h with rfl | rfl
    · simp at hc hc'; rcases hc with rfl | rfl <;> cases hc'
    · exact far

end Sys2Proof.Tests
end

section
/-! The family 10_state.md: what a halted step does (10_state.md R35, 60_exceptions.md R370), and how the byte registers
lie in the word registers (10_state.md R22, R23). -/

namespace Sys2Proof.Machine

/-! ### A halted step -/

theorem step_of_halted {s : State} (h : s.halted = true) : step s = .next s.endCycle := by
  rw [step, if_pos h]

theorem DeviceOnly.endCycle (s : State) : DeviceOnly s s.endCycle :=
  (DeviceOnly.tick s).trans (DeviceOnly.serviceDevices _)

theorem tick_cycles (s : State) : s.tick.clock.cycles = s.clock.cycles + 1 := by
  have h := (tick2_spec s).1
  rw [tick_eq]
  split
  · rw [(ClockKept.checkTimers _).cyc, h]
  · exact h

/-- No invariant of the clock is needed: timers and devices never count a cycle, in whatever state they are. -/
theorem endCycle_cycles (s : State) : s.endCycle.clock.cycles = s.clock.cycles + 1 := by
  rw [State.endCycle, (ClockKept.serviceDevices _).cyc, tick_cycles]

/-- Settles O7: a halted step is the end of a cycle and nothing else, and that reaches only devices and clock. -/
theorem haltedStepExecutesNothing : Obligations.HaltedStepExecutesNothing := by
  intro s h
  have kept := DeviceOnly.endCycle s
  exact ⟨s.endCycle, step_of_halted h, kept.same, kept.lastDecode, endCycle_cycles s⟩

/-! ### Byte registers -/

section ByteRegisters

variable (s : State) (v : Byte) {r : Reg8}

theorem toNat_setReg8_low (h : r.isHigh = false) :
    ((s.setReg8 r v).reg16 r.word).toNat = (s.reg16 r.word).toNat / 256 * 256 + v.toNat := by
  simp [State.reg16_setReg8_word, h, toNat_wordOfBytes, toNat_hiByte]

theorem toNat_setReg8_high (h : r.isHigh = true) :
    ((s.setReg8 r v).reg16 r.word).toNat = v.toNat * 256 + (s.reg16 r.word).toNat % 256 := by
  simp [State.reg16_setReg8_word, h, toNat_wordOfBytes, toNat_loByte]

theorem toNat_reg8_low (h : r.isHigh = false) : (s.reg8 r).toNat = (s.reg16 r.word).toNat % 256 := by
  rw [State.reg8_low s r h, toNat_loByte]

theorem toNat_reg8_high (h : r.isHigh = true) : (s.reg8 r).toNat = (s.reg16 r.word).toNat / 256 := by
  rw [State.reg8_high s r h, toNat_hiByte]

end ByteRegisters

theorem word_of_low_half :
    ∀ p ∈ [(Reg8.al, Reg16.ax), (.cl, .cx), (.dl, .dx), (.bl, .bx)], p.1.isHigh = false ∧ p.1.word = p.2 := by
  decide

theorem word_of_high_half :
    ∀ p ∈ [(Reg8.ah, Reg16.ax), (.ch, .cx), (.dh, .dx), (.bh, .bx)], p.1.isHigh = true ∧ p.1.word = p.2 := by
  decide

/-- Settles O17: the pairs of each list are one half and its word, so the four registers of a list share one proof. -/
theorem byteRegistersAliasWords : Obligations.ByteRegistersAliasWords := by
  intro s v
  constructor
  · intro p hp
    obtain ⟨low, word⟩ := word_of_low_half p hp
    rw [← word]
    exact ⟨toNat_setReg8_low s v low, toNat_reg8_low s low, State.reg16_setReg8_of_ne s p.1 v⟩
  · intro p hp
    obtain ⟨high, word⟩ := word_of_high_half p hp
    rw [← word]
    exact ⟨toNat_setReg8_high s v high, toNat_reg8_high s high, State.reg16_setReg8_of_ne s p.1 v⟩

end Sys2Proof.Machine
end

section
/-! The family 20_memory.md: stored words (20_memory.md R62, R65, R66) and the address of a data access (R61, R63, R69;
30_encoding.md R104 to R106). -/

namespace Sys2Proof.Machine

/-! ### Stored words (20_memory.md R62, R65, R66) -/

theorem State.Inv.memWrite16 {s : State} (hi : s.Inv) (a : Nat) (v : Word) : (s.memWrite16 a v).Inv :=
  State.Inv.of_same_clock hi rfl
    ⟨State.memWrite16_wf s a v hi.memory.1, State.memWrite16_below s a v hi.memory.2 (Nat.lt_of_succ_lt hi.two)⟩ rfl rfl

/-- Settles O18: each byte is read through the law of a byte read after a word store; that its two cells are different
ones is where the invariant's bound on MEM_SIZE is needed. -/
theorem storedWordReadsBack : Obligations.StoredWordReadsBack := by
  intro s a v hi
  have wf := hi.memory.1
  have apart : s.index a ≠ s.index (a + 1) := (s.index_succ_ne a hi.two).symm
  refine ⟨State.memRead16_memWrite16 s a v wf hi.two, ?low, ?high, ?others, hi.memWrite16 a v⟩
  case low => rw [State.memRead8_memWrite16 s a a v wf, if_neg apart, if_pos rfl, toNat_loByte]
  case high => rw [State.memRead8_memWrite16 s a (a + 1) v wf, if_pos rfl, toNat_hiByte]
  case others =>
    intro b hlow hhigh
    rw [State.memRead8_memWrite16 s a b v wf]
    exact (if_neg hhigh).trans (if_neg hlow)

/-! ### Addresses of data accesses (20_memory.md R61, R63; 30_encoding.md R104 to R106) -/

/-- A sign-extended byte displacement stands for its signed value modulo 2^16. -/
theorem toNat_signExtend_byte (d : Byte) : ((d.signExtend 16).toNat : Int) = signedOf 8 d.toNat % 65536 := by
  rw [signedOf_toNat, BitVec.signExtend, BitVec.toNat_ofInt]
  exact Int.toNat_of_nonneg (Int.emod_nonneg _ (by decide))

theorem seg2abs_of_no_override {s : State} (h : s.ovr = none) (seg : SReg) (off : Word) :
    s.seg2abs seg off = (s.sreg seg).toNat * 16 + off.toNat := by
  simp [State.seg2abs, lin, h]

theorem seg2abs_of_override {s : State} {r : SReg} (h : s.ovr = some r) (seg : SReg) (off : Word) :
    s.seg2abs seg off = (s.sreg r).toNat * 16 + off.toNat := by
  simp [State.seg2abs, lin, h]

/-- A memory operand on a base has the default segment of that base, whatever its displacement (R106). -/
theorem MemOp.seg_of_base (b : BaseKind) (d : Byte) (w : Word) :
    (MemOp.base b).seg = b.seg ∧ (MemOp.disp8 b d).seg = b.seg ∧ (MemOp.disp16 b w).seg = b.seg := ⟨rfl, rfl, rfl⟩

theorem BaseKind.seg_of_bp : ∀ b ∈ [BaseKind.bpSi, .bpDi, .bp], b.seg = .ss := by decide

theorem BaseKind.seg_of_not_bp {b : BaseKind} (h : b ∉ [BaseKind.bpSi, .bpDi, .bp]) : b.seg = .ds := by
  cases b with
  | bpSi | bpDi | bp => exact absurd h (by decide)
  | bxSi | bxDi | si | di | bx => rfl

/-- Settles O36: every clause on the offset follows from the value of the base expression modulo 2^16. -/
theorem dataAddressComputation : Obligations.DataAddressComputation := by
  intro s d w seg base
  have hbase : ∀ b, (s.eaBase b).toNat = base b % 65536 := by
    intro b
    cases b <;> simp [State.eaBase, base, BitVec.toNat_add, Nat.mod_eq_of_lt (BitVec.isLt _)]
  refine ⟨hbase, ?disp8, ?disp16, rfl, rfl, ?stackForms, ?dataForms, fun h => seg2abs_of_no_override h seg w,
    fun r h => seg2abs_of_override h seg w⟩
  case disp8 =>
    intro b
    have hd := toNat_signExtend_byte d
    rw [State.eaOff, BitVec.toNat_add, hbase b]
    omega
  case disp16 =>
    intro b
    rw [State.eaOff, BitVec.toNat_add, hbase b]
    omega
  case stackForms =>
    intro b hb
    rw [← BaseKind.seg_of_bp b hb]
    exact MemOp.seg_of_base b d w
  case dataForms =>
    intro b hb
    rw [← BaseKind.seg_of_not_bp hb]
    exact MemOp.seg_of_base b d w

end Sys2Proof.Machine
end

section
/-! The family 20_memory.md: what lies outside the program, and that no instruction but IN, OUT and HLT reaches it
(20_memory.md R72, 60_exceptions.md R380, R403). -/

namespace Sys2Proof.Machine

/-- What is outside the program's own state: configuration, halted bit, clock, devices, record of the decode, host's
time. As one value, so that "all of it is kept" is one equation to rewrite with. -/
structure Outside where
  cfg        : Config
  halted     : Bool
  clock      : Clock
  pit        : Pit
  video      : Video
  lastDecode : Option DecodeRecord
  wallNS     : Rat

def State.outside (s : State) : Outside where
  cfg := s.cfg
  halted := s.halted
  clock := s.clock
  pit := s.pit
  video := s.video
  lastDecode := s.lastDecode
  wallNS := s.wallNS

/-! ### The state's own updates -/

section Updates

variable (s : State)

@[simp] theorem outside_setReg16 (r : Reg16) (v : Word) : (s.setReg16 r v).outside = s.outside := by
  simp [State.outside]
@[simp] theorem outside_setReg8 (r : Reg8) (v : Byte) : (s.setReg8 r v).outside = s.outside := by simp [State.outside]
@[simp] theorem outside_setSReg (r : SReg) (v : Word) : (s.setSReg r v).outside = s.outside := by simp [State.outside]
@[simp] theorem outside_setIp (v : Word) : (s.setIp v).outside = s.outside := rfl
@[simp] theorem outside_advance (len : Nat) : (s.advance len).outside = s.outside := rfl
@[simp] theorem outside_setFlags (f : Flags) : (s.setFlags f).outside = s.outside := rfl
@[simp] theorem outside_setOvr (o : Option SReg) : (s.setOvr o).outside = s.outside := rfl
@[simp] theorem outside_setRep (k : Option RepKind) : (s.setRep k).outside = s.outside := rfl
@[simp] theorem outside_setDraws (n : Nat) : (s.setDraws n).outside = s.outside := rfl
@[simp] theorem outside_memWrite8 (a : Nat) (v : Byte) : (s.memWrite8 a v).outside = s.outside := rfl
@[simp] theorem outside_memWrite16 (a : Nat) (v : Word) : (s.memWrite16 a v).outside = s.outside := rfl

/-! ### Operands, stack, traps, free flags -/

@[simp] theorem outside_putPlace8 (p : Place Reg8) (v : Byte) : (s.putPlace8 p v).outside = s.outside := by
  cases p <;> simp [State.putPlace8]

@[simp] theorem outside_putPlace16 (p : Place Reg16) (v : Word) : (s.putPlace16 p v).outside = s.outside := by
  cases p <;> simp [State.putPlace16]

@[simp] theorem outside_writeE8 (e : RM8) (v : Byte) : (s.writeE8 e v).outside = s.outside := outside_putPlace8 s _ v

@[simp] theorem outside_writeE16 (e : RM16) (v : Word) : (s.writeE16 e v).outside = s.outside :=
  outside_putPlace16 s _ v

@[simp] theorem outside_push16 (v : Word) : (s.push16 v).outside = s.outside := by simp [push16_eq]

@[simp] theorem outside_pop16 : s.pop16.2.outside = s.outside := by simp [pop_snd]

@[simp] theorem outside_flagsImage : s.flagsImage.2.outside = s.outside := rfl

@[simp] theorem outside_freeFlags (xs : List StatusFlag) : (s.freeFlags xs).outside = s.outside := by
  obtain ⟨hcfg, -, -, hhalted, hclock, hpit, hvideo, hdecode, hwall⟩ := (FlagsOnly.freeFlags s xs).system
  simp only [State.outside, hcfg, hhalted, hclock, hpit, hvideo, hdecode, hwall]

@[simp] theorem outside_trap (n : Byte) (ret : Word) : (s.trap n ret).outside = s.outside := by simp [State.trap]

@[simp] theorem outside_interruptReturn : s.interruptReturn.outside = s.outside := by simp [State.interruptReturn]

end Updates

/-! ### The shared shapes of the instruction families -/

/-! The two-operand operations write the flags; the logic ones also take a draw for AF. -/

@[simp] theorem outside_addWith (c : Bool) (n : Nat) (a b : BitVec n) (s : State) :
    (addWith c n a b s).2.outside = s.outside := rfl
@[simp] theorem outside_subWith (c : Bool) (n : Nat) (a b : BitVec n) (s : State) :
    (subWith c n a b s).2.outside = s.outside := rfl
@[simp] theorem outside_logicResult {n : Nat} (r : BitVec n) (s : State) :
    (s.logicResult r).2.outside = s.outside := by simp [State.logicResult]
@[simp] theorem outside_andOp (n : Nat) (a b : BitVec n) (s : State) : (andOp n a b s).2.outside = s.outside :=
  outside_logicResult _ s
@[simp] theorem outside_orOp (n : Nat) (a b : BitVec n) (s : State) : (orOp n a b s).2.outside = s.outside :=
  outside_logicResult _ s
@[simp] theorem outside_xorOp (n : Nat) (a b : BitVec n) (s : State) : (xorOp n a b s).2.outside = s.outside :=
  outside_logicResult _ s

theorem outside_applyAlu {op : AluOp} (hop : ∀ n a b u, (op n a b u).2.outside = u.outside) (f : AluForm) (s : State) :
    (applyAlu op f s).outside = s.outside := by
  cases f <;> simp [applyAlu, hop]

theorem outside_compareAlu {op : AluOp} (hop : ∀ n a b u, (op n a b u).2.outside = u.outside) (f : AluForm)
    (s : State) : (compareAlu op f s).outside = s.outside := by
  cases f <;> exact hop _ _ _ s

theorem outside_applyIncDec {op : UnaryOp} (hop : ∀ n a u, (op n a u).2.outside = u.outside) (f : IncForm) (s : State) :
    (applyIncDec op f s).outside = s.outside := by
  cases f <;> simp [applyIncDec, hop]

theorem outside_applyUnary {op : UnaryOp} (hop : ∀ n a u, (op n a u).2.outside = u.outside) (f : UnForm) (s : State) :
    (applyUnary op f s).outside = s.outside := by
  cases f <;> simp [applyUnary, hop]

@[simp] theorem outside_applyTest (f : TestForm) (s : State) : (applyTest f s).outside = s.outside := by
  cases f <;> simp [applyTest]

@[simp] theorem outside_shiftFlags (s : State) (op : ShiftOp) {n : Nat} (cnt : Nat) (v0 v : BitVec n) (cf : Bool) :
    (s.shiftFlags op cnt v0 v cf).outside = s.outside := by
  unfold State.shiftFlags
  split_ifs <;> simp

@[simp] theorem outside_applyShift8 (op : ShiftOp) (e : RM8) (cnt : Nat) (s : State) :
    (applyShift8 op e cnt s).outside = s.outside := by
  unfold applyShift8
  split_ifs <;> simp

@[simp] theorem outside_applyShift16 (op : ShiftOp) (e : RM16) (cnt : Nat) (s : State) :
    (applyShift16 op e cnt s).outside = s.outside := by
  unfold applyShift16
  split_ifs <;> simp

@[simp] theorem outside_applyShift (op : ShiftOp) (f : ShiftForm) (s : State) :
    (applyShift op f s).outside = s.outside := by
  cases f <;> simp [applyShift]

@[simp] theorem outside_decimalResult (s : State) (al : Byte) : (s.decimalResult al).outside = s.outside := by
  simp [State.decimalResult]

@[simp] theorem outside_asciiResult (s : State) (al ah : Byte) : (s.asciiResult al ah).outside = s.outside := by
  simp [State.asciiResult]

@[simp] theorem outside_jumpIf (s : State) (taken : Bool) (rel : Byte) : (s.jumpIf taken rel).outside = s.outside := by
  cases taken <;> rfl

@[simp] theorem outside_countDown (s : State) : s.countDown.outside = s.outside := outside_setReg16 s _ _

@[simp] theorem outside_popIp (s : State) : s.popIp.outside = s.outside := by simp [State.popIp]

@[simp] theorem outside_popCs (s : State) : s.popCs.outside = s.outside := by simp [State.popCs]

@[simp] theorem outside_callNear (s : State) (target : Word) (len : Nat) :
    (s.callNear target len).outside = s.outside := by
  simp [State.callNear]

@[simp] theorem outside_callTo (s : State) (off seg : Word) (len : Nat) :
    (s.callTo off seg len).outside = s.outside := by
  simp [State.callTo]

@[simp] theorem outside_stepSi (s : State) (size : Word) : (s.stepSi size).outside = s.outside := outside_setReg16 s _ _

@[simp] theorem outside_stepDi (s : State) (size : Word) : (s.stepDi size).outside = s.outside := outside_setReg16 s _ _

/-! A repetition keeps what each of its elements keeps. -/

theorem outside_repeatElement {element : State → State} (helem : ∀ u, (element u).outside = u.outside)
    (compares : Bool) (k : RepKind) (n : Nat) (s : State) :
    (repeatElement compares k element n s).outside = s.outside := by
  induction n generalizing s with
  | zero => rfl
  | succ n ih =>
    rw [repeatElement]
    split_ifs <;> simp [ih, helem]

theorem outside_stringStep {element : State → State} (helem : ∀ u, (element u).outside = u.outside)
    (compares : Bool) (s : State) : (stringStep compares element s).outside = s.outside := by
  rw [stringStep]
  split
  · exact helem s
  · exact outside_repeatElement helem _ _ _ s

/-! ### The instructions -/

/-- The outcome of an instruction run in `s`: if it is a next state, that has the outside of `s`. -/
def KeepsOutside (s : State) (o : Outcome State) : Prop := ∀ t, o = .next t → t.outside = s.outside

@[simp] theorem keepsOutside_next {s u : State} : KeepsOutside s (.next u) ↔ u.outside = s.outside := by
  simp [KeepsOutside]

@[simp] theorem keepsOutside_fault (s : State) (f : Fault) : KeepsOutside s (.fault f) := by simp [KeepsOutside]

@[simp] theorem keepsOutside_refused (s : State) (r : Refusal) : KeepsOutside s (.refused r) := by simp [KeepsOutside]

theorem keepsOutside_advance {s u : State} (h : u.outside = s.outside) (len : Nat) :
    KeepsOutside s (.next (u.advance len)) :=
  keepsOutside_next.2 h

/-- By families: each meaning composes updates and shared shapes that keep the outside. -/
theorem exec_keepsOutside {i : Instr} (hports : i.usesPorts = false) (hhlt : i ≠ .hlt) (s : State) :
    KeepsOutside s (exec i s) := by
  cases i with
  | inImm | inDx | outImm | outDx => cases hports
  | hlt => exact absurd rfl hhlt
  | add f | adc f => exact keepsOutside_advance (outside_applyAlu (outside_addWith _) f s) _
  | sub f | sbb f => exact keepsOutside_advance (outside_applyAlu (outside_subWith _) f s) _
  | and f => exact keepsOutside_advance (outside_applyAlu outside_andOp f s) _
  | or f => exact keepsOutside_advance (outside_applyAlu outside_orOp f s) _
  | xor f => exact keepsOutside_advance (outside_applyAlu outside_xorOp f s) _
  | cmp f => exact keepsOutside_advance (outside_compareAlu (outside_subWith _) f s) _
  | test f => exact keepsOutside_advance (outside_applyTest f s) _
  | inc f => exact keepsOutside_advance (outside_applyIncDec (fun n a => outside_addWith false n a 1) f s) _
  | dec f => exact keepsOutside_advance (outside_applyIncDec (fun n a => outside_subWith false n a 1) f s) _
  | neg f => exact keepsOutside_advance (outside_applyUnary (fun n b => outside_subWith false n 0 b) f s) _
  | not f => exact keepsOutside_advance (outside_applyUnary (fun _ _ _ => rfl) f s) _
  | mul f | imul f => cases f <;> simp [exec, execMul, execImul, State.multiplyFlags, State.setDxAx]
  | div f | idiv f =>
    cases f <;> simp only [exec, execDiv, execIdiv, State.divideFlags] <;> split_ifs <;> simp
  | daa | das => simp [exec, execDaa, execDas]
  | aaa | aas => simp only [exec, execAaa, execAas]; split_ifs <;> simp
  | aam => simp only [exec, execAam]; split_ifs <;> simp
  | aad | cbw | cwd => simp [exec, execAad, execCbw, execCwd]
  | rol | ror | rcl | rcr | shl | shr | sar =>
    simp [exec, execRol, execRor, execRcl, execRcr, execShl, execShr, execSar]
  | mov f | movImm f | movRegImm f | movMoffs f | xchg f =>
    cases f <;> simp [exec, execMov, execMovImm, execMovRegImm, execMovMoffs, execXchg]
  | movFromSeg e sw | movToSeg sw e =>
    simp only [exec, execMovFromSeg, execMovToSeg]
    cases SReg.ofSw sw <;> simp
  | xchgAx | xlat => simp [exec, execXchgAx, execXlat]
  | lea g e | lds g e | les g e => cases e <;> simp [exec, execLea, execLds, execLes]
  | pushReg | pushSeg | pushRm | pushf => simp [exec, execPushReg, execPushSeg, execPushRm, execPushf]
  | popReg | popSeg | popRm | popf => simp [exec, execPopReg, execPopSeg, execPopRm, execPopf]
  | lahf | sahf => simp [exec, execLahf, execSahf]
  | jmpRel f => cases f <;> simp [exec, execJmpRel]
  | jmpRm | jmpFar => simp [exec, execJmpRm, execJmpFar]
  | jo | jno | jb | jnb | jz | jnz | jbe | ja | js | jns | jpe | jpo | jl | jge | jle | jg =>
    exact keepsOutside_next.2 (outside_jumpIf s _ _)
  | loop | loopz | loopnz | jcxz => simp [exec, execLoop, execLoopz, execLoopnz, execJcxz]
  | callRel | callRm | callFar => simp [exec, execCallRel, execCallRm, execCallFar]
  | jmpFarMem e | callFarMem e => cases e <;> simp [exec, execJmpFarMem, execCallFarMem]
  | ret | retImm | retf | retfImm => simp [exec, execRet, execRetImm, execRetf, execRetfImm, State.releaseStack]
  | int | int3 | iret => simp [exec, execInt, execInt3, execIret]
  | into => simp only [exec, execInto]; split_ifs <;> simp
  | movsb | movsw => exact keepsOutside_advance (outside_stringStep (by simp [movsbElement, movswElement]) _ s) _
  | cmpsb | cmpsw => exact keepsOutside_advance (outside_stringStep (by simp [cmpsbElement, cmpswElement]) _ s) _
  | scasb | scasw => exact keepsOutside_advance (outside_stringStep (by simp [scasbElement, scaswElement]) _ s) _
  | lodsb | lodsw => exact keepsOutside_advance (outside_stringStep (by simp [lodsbElement, lodswElement]) _ s) _
  | stosb | stosw => exact keepsOutside_advance (outside_stringStep (by simp [stosbElement, stoswElement]) _ s) _
  | segEs | segCs | segSs | segDs | repz | repnz | lock => exact keepsOutside_next.2 rfl
  | clc | stc | cmc | cld | std | cli | sti | nop | wait | esc => exact keepsOutside_next.2 rfl
  | unimplOp | unimplGroup => exact keepsOutside_refused s _

/-! ### IN and OUT -/

/-- What a port access does to the outside: only the device side changes, no cycle is counted (`ClockKept`), and the
video device is not reached (log 24). -/
structure PortAccess (s u : State) : Prop where
  clock : ClockKept s u
  video : u.video = s.video

theorem PortAccess.refl (s : State) : PortAccess s s := ⟨.refl s, rfl⟩

theorem PortAccess.readCount (s : State) (c : Channel) : PortAccess s (s.readCount c).2 :=
  ⟨.readCount s c, readCount_video s c⟩

theorem PortAccess.portWrite8 (s : State) (p : Word) (v : Byte) : PortAccess s (s.portWrite8 p v) :=
  ⟨.portWrite8 s p v, portWrite8_video s p v⟩

theorem PortAccess.portRead8 {s u : State} {p : Word} {v : Byte} (h : s.portRead8 p = .ok (v, u)) : PortAccess s u := by
  unfold State.portRead8 at h
  split at h
  · cases h; exact .refl s
  · cases h
  next c _ =>
    have read := PortAccess.readCount s c
    rwa [Except.ok.inj h] at read

theorem PortAccess.portRead16 {s u : State} {p v : Word} (h : s.portRead16 p = .ok (v, u)) : PortAccess s u := by
  unfold State.portRead16 at h
  split at h
  · cases h; exact .refl s
  · cases h
  next c _ =>
    cases h
    have read := PortAccess.readCount s c
    exact ⟨read.clock.trans (.setDraws _ _), read.video⟩

theorem input_portAccess {s t : State} {w : Width} {p : Word} {len : Nat} (h : s.input w p len = .next t) :
    ∃ u, PortAccess s u ∧ t.outside = u.outside := by
  cases w with
  | byte =>
    simp only [State.input] at h
    split at h
    · cases h
    next v u hread => cases h; exact ⟨u, .portRead8 hread, by simp⟩
  | word =>
    simp only [State.input] at h
    split at h
    · cases h
    next v u hread => cases h; exact ⟨u, .portRead16 hread, by simp⟩

theorem output_portAccess (s : State) (w : Width) (p : Word) (len : Nat) :
    ∃ u, PortAccess s u ∧ (s.output w p len).outside = u.outside := by
  cases w
  · exact ⟨_, .portWrite8 s p _, rfl⟩
  · exact ⟨_, .portWrite8 s p _, rfl⟩

theorem exec_portAccess {i : Instr} {s t : State} (hports : i.usesPorts = true) (h : exec i s = .next t) :
    ∃ u, PortAccess s u ∧ t.outside = u.outside := by
  cases i with
  | inImm | inDx => exact input_portAccess h
  | outImm | outDx => cases h; exact output_portAccess s _ _ _
  | _ => cases hports

/-- Settles O16: HLT sets the halted bit alone, IN and OUT are a port access and an update of the program's state, and
every other instruction keeps all that is outside. -/
theorem onlyPortsReachDevices : Obligations.OnlyPortsReachDevices := by
  intro i s t h
  by_cases hhlt : i = .hlt
  · subst hhlt
    cases h
    simp [State.advance]
  · have running : (s.halted || i == .hlt) = s.halted := by simp [hhlt]
    rw [running]
    cases hports : i.usesPorts with
    | true =>
      obtain ⟨u, ⟨clock, video⟩, same⟩ := exec_portAccess hports h
      simp only [State.outside, Outside.mk.injEq] at same
      obtain ⟨hcfg, hhalted, hclock, -, hvideo, hdecode, -⟩ := same
      exact ⟨hcfg.trans clock.dev.cfg, hdecode.trans clock.dev.lastDecode, hhalted.trans clock.dev.halted,
        (congrArg Clock.cycles hclock).trans clock.cyc, hvideo.trans video, nofun⟩
    | false =>
      have same := exec_keepsOutside hports hhlt s t h
      simp only [State.outside, Outside.mk.injEq] at same
      obtain ⟨hcfg, hhalted, hclock, hpit, hvideo, hdecode, hwall⟩ := same
      exact ⟨hcfg, hdecode, hhalted, congrArg Clock.cycles hclock, hvideo, fun _ => ⟨hpit, hclock, hwall⟩⟩

end Sys2Proof.Machine
end

section
/-! The family 30_encoding.md, its operand layer: what each reader of operand bytes answers, as an equivalence with the
bytes the encoder writes (30_encoding.md R92, R104, R105, R110), and when there are bytes enough. -/

namespace Sys2Proof

open Laws.EncodedLength (length_encodeRm)

/-! ### Fields and register codes -/

/-- A case split on a three-bit field, in the order of its values. -/
theorem octal_cases {P : BitVec 3 → Prop} (v0 : P 0) (v1 : P 1) (v2 : P 2) (v3 : P 3) (v4 : P 4) (v5 : P 5) (v6 : P 6)
    (v7 : P 7) (k : BitVec 3) : P k := by
  have all : ∀ k : BitVec 3, k = 0 ∨ k = 1 ∨ k = 2 ∨ k = 3 ∨ k = 4 ∨ k = 5 ∨ k = 6 ∨ k = 7 := by decide
  rcases all k with rfl | rfl | rfl | rfl | rfl | rfl | rfl | rfl <;> assumption

theorem modRmByte_fields (m : Byte) : modRmByte (modField m) (regField m) (rmField m) = m := by revert m; decide

theorem BaseKind.code_ofCode (c : BitVec 3) : (BaseKind.ofCode c).code = c := by
  cases c using octal_cases <;> rfl

theorem Reg16.code_ofCode (c : BitVec 3) : (Reg16.ofCode c).code = c := by cases c using octal_cases <;> rfl

theorem Reg8.code_ofCode (c : BitVec 3) : (Reg8.ofCode c).code = c := by cases c using octal_cases <;> rfl

/-! ### Readers -/

theorem bind_eq_ok {α β : Type} {x : Except DecodeError α} {f : α → Except DecodeError β} {b : β} :
    x >>= f = .ok b ↔ ∃ a, x = .ok a ∧ f a = .ok b := by
  cases x <;> simp [bind, Except.bind]

/-- A reader takes a value from the front of a byte string. -/
abbrev Reader (α : Type) : Type := List Byte → Except DecodeError (α × List Byte)

/-- The reader takes exactly the bytes `bytes x` of every legal `x`, at most `most` of them, and on `most` bytes or more
it always reads something. -/
structure Takes {α : Type} (take : Reader α) (legal : α → Prop) (bytes : α → List Byte) (most : Nat) : Prop where
  eq_ok : ∀ {bs x rest}, take bs = .ok (x, rest) ↔ legal x ∧ bs = bytes x ++ rest
  total : ∀ {bs : List Byte}, most ≤ bs.length → ∃ x rest, take bs = .ok (x, rest)
  length_le : ∀ x, (bytes x).length ≤ most

/-- Two readers in a row. -/
def takePair {α β : Type} (ta : Reader α) (tb : Reader β) : Reader (α × β) := fun bs => do
  let (a, bs) ← ta bs
  let (b, bs) ← tb bs
  .ok ((a, b), bs)

theorem Takes.pair {α β : Type} {ta : Reader α} {tb : Reader β} {la : α → Prop} {lb : β → Prop} {ba : α → List Byte}
    {bb : β → List Byte} {m n : Nat} (ha : Takes ta la ba m) (hb : Takes tb lb bb n) :
    Takes (takePair ta tb) (fun x => la x.1 ∧ lb x.2) (fun x => ba x.1 ++ bb x.2) (m + n) where
  eq_ok := by
    rintro bs ⟨a, b⟩ rest
    constructor
    · intro h
      obtain ⟨⟨a', tail⟩, hra, hread⟩ := bind_eq_ok.1 h
      obtain ⟨⟨b', rest'⟩, hrb, hresult⟩ := bind_eq_ok.1 hread
      cases hresult
      obtain ⟨hla, rfl⟩ := ha.eq_ok.1 hra
      obtain ⟨hlb, rfl⟩ := hb.eq_ok.1 hrb
      exact ⟨⟨hla, hlb⟩, (List.append_assoc ..).symm⟩
    · rintro ⟨⟨hla, hlb⟩, rfl⟩
      exact bind_eq_ok.2 ⟨_, ha.eq_ok.2 ⟨hla, List.append_assoc ..⟩, bind_eq_ok.2 ⟨_, hb.eq_ok.2 ⟨hlb, rfl⟩, rfl⟩⟩
  total := by
    intro bs h
    obtain ⟨a, tail, hra⟩ := ha.total (Nat.le_of_add_right_le h)
    obtain ⟨-, rfl⟩ := ha.eq_ok.1 hra
    have := ha.length_le a
    obtain ⟨b, rest, hrb⟩ := hb.total (bs := tail) (by rw [List.length_append] at h; omega)
    exact ⟨(a, b), rest, bind_eq_ok.2 ⟨_, hra, bind_eq_ok.2 ⟨_, hrb, rfl⟩⟩⟩
  length_le := fun x => by
    rw [List.length_append]
    exact Nat.add_le_add (ha.length_le x.1) (hb.length_le x.2)

/-! ### Immediate bytes and words -/

theorem Takes.byte : Takes takeByte (fun _ => True) (fun b => [b]) 1 where
  eq_ok := by
    intro bs b rest
    cases bs <;> simp [takeByte]
  total := by
    intro bs h
    match bs with
    | b :: rest => exact ⟨b, rest, rfl⟩
  length_le := fun _ => le_refl 1

theorem Takes.word : Takes takeWord (fun _ => True) encodeWord 2 where
  eq_ok := by
    intro bs w rest
    constructor
    · intro h
      match bs with
      | lo :: hi :: tail =>
        cases h
        simp [encodeWord]
    · rintro ⟨-, rfl⟩
      exact takeWord_encode w rest
  total := by
    intro bs h
    match bs with
    | lo :: hi :: rest => exact ⟨wordOfBytes lo hi, rest, rfl⟩
    | [_] => simp at h
  length_le := fun _ => le_refl 2

/-! ### r/m operands (30_encoding.md R104, R105) -/

/-- By the mode field: what was read carries the mode and the `rm` field, which give the addressing byte back. -/
theorem encodeRm_of_takeRm {m : Byte} {bs rest : List Byte} {e : RM (BitVec 3)} (h : takeRm m bs = .ok (e, rest)) :
    e.wf = true ∧ m :: bs = encodeRm (regField m) e ++ rest := by
  have fields := modRmByte_fields m
  unfold takeRm at h
  split at h
  case h_1 mode =>
    replace mode : modField m = 0 := BitVec.eq_of_toNat_eq mode
    split at h
    next direct =>
      obtain ⟨⟨off, tail⟩, hoff, hresult⟩ := bind_eq_ok.1 h
      cases hresult
      rw [mode, direct] at fields
      exact ⟨rfl, by rw [(Takes.word.eq_ok.1 hoff).2, encodeRm, fields]; rfl⟩
    next based =>
      cases h
      rw [mode] at fields
      have notBp : BaseKind.ofCode (rmField m) ≠ .bp := fun hbp =>
        based (by rw [← BaseKind.code_ofCode (rmField m), hbp]; rfl)
      exact ⟨by simpa [RM.wf, MemOp.wf] using notBp, by rw [encodeRm, BaseKind.code_ofCode, fields]; rfl⟩
  case h_2 mode =>
    replace mode : modField m = 1 := BitVec.eq_of_toNat_eq mode
    obtain ⟨⟨d, tail⟩, hd, hresult⟩ := bind_eq_ok.1 h
    cases hresult
    rw [mode] at fields
    exact ⟨rfl, by rw [(Takes.byte.eq_ok.1 hd).2, encodeRm, BaseKind.code_ofCode, fields]; rfl⟩
  case h_3 mode =>
    replace mode : modField m = 2 := BitVec.eq_of_toNat_eq mode
    obtain ⟨⟨d, tail⟩, hd, hresult⟩ := bind_eq_ok.1 h
    cases hresult
    rw [mode] at fields
    exact ⟨rfl, by rw [(Takes.word.eq_ok.1 hd).2, encodeRm, BaseKind.code_ofCode, fields]; rfl⟩
  case h_4 not0 not1 not2 =>
    have three : ∀ d : BitVec 2, d.toNat ≠ 0 → d.toNat ≠ 1 → d.toNat ≠ 2 → d = 3 := by decide
    have mode : modField m = 3 := three _ not0 not1 not2
    cases h
    rw [mode] at fields
    exact ⟨rfl, by rw [encodeRm, fields]; rfl⟩

theorem takeRm_total (m : Byte) {bs : List Byte} (h : 2 ≤ bs.length) : ∃ e rest, takeRm m bs = .ok (e, rest) := by
  match bs with
  | lo :: hi :: rest =>
    unfold takeRm
    split
    · split_ifs
      · exact ⟨_, _, rfl⟩
      · exact ⟨_, _, rfl⟩
    · exact ⟨_, _, rfl⟩
    · exact ⟨_, _, rfl⟩
    · exact ⟨_, _, rfl⟩
  | [_] => simp at h

theorem takeModRm_eq_ok {bs rest : List Byte} {k : BitVec 3} {e : RM (BitVec 3)} :
    takeModRm bs = .ok (k, e, rest) ↔ e.wf = true ∧ bs = encodeRm k e ++ rest := by
  constructor
  · intro h
    obtain ⟨⟨m, tail⟩, hm, hread⟩ := bind_eq_ok.1 h
    obtain ⟨⟨e', rest'⟩, hrm, hresult⟩ := bind_eq_ok.1 hread
    cases hresult
    rw [(Takes.byte.eq_ok.1 hm).2]
    exact encodeRm_of_takeRm hrm
  · rintro ⟨he, rfl⟩
    exact takeModRm_encodeRm k e he rest

theorem takeModRm_total {bs : List Byte} (h : 3 ≤ bs.length) : ∃ k e rest, takeModRm bs = .ok (k, e, rest) := by
  match bs with
  | m :: tail =>
    obtain ⟨e, rest, hread⟩ := takeRm_total m (Nat.le_of_succ_le_succ h)
    exact ⟨regField m, e, rest, bind_eq_ok.2 ⟨(m, tail), rfl, bind_eq_ok.2 ⟨_, hread, rfl⟩⟩⟩

/-- An `Eb` operand with the `reg` field beside it, as one value. -/
def takeOp8 : Reader (BitVec 3 × RM8) := fun bs => do
  let (k, e, bs) ← takeE8 bs
  .ok ((k, e), bs)

/-- An `Ev` operand with the `reg` field beside it, as one value. -/
def takeOp16 : Reader (BitVec 3 × RM16) := fun bs => do
  let (k, e, bs) ← takeE16 bs
  .ok ((k, e), bs)

theorem RM.wf_map {R S : Type} (f : R → S) (e : RM R) : (e.map f).wf = e.wf := by cases e <;> rfl

theorem RM.map_map_of_leftInverse {R S : Type} {f : R → S} {g : S → R} (h : ∀ r, g (f r) = r) (e : RM R) :
    (e.map f).map g = e := by
  cases e <;> simp [RM.map, h]

/-- An r/m operand of either width, by its register codes: three bytes at most. -/
theorem Takes.rm {R : Type} {take : Reader (BitVec 3 × RM R)} {ofCode : BitVec 3 → R} {code : R → BitVec 3}
    (htake : ∀ bs, take bs = takeModRm bs >>= fun x => .ok ((x.1, x.2.1.map ofCode), x.2.2))
    (code_ofCode : ∀ c, code (ofCode c) = c) (ofCode_code : ∀ r, ofCode (code r) = r) :
    Takes take (fun x => x.2.wf = true) (fun x => encodeRm x.1 (x.2.map code)) 3 where
  eq_ok := by
    rintro bs ⟨k, e⟩ rest
    constructor
    · intro h
      obtain ⟨⟨k', c, tail⟩, hread, hresult⟩ := bind_eq_ok.1 ((htake bs).symm.trans h)
      cases hresult
      obtain ⟨hc, rfl⟩ := takeModRm_eq_ok.1 hread
      exact ⟨(RM.wf_map ofCode c).trans hc, by rw [RM.map_map_of_leftInverse code_ofCode]⟩
    · rintro ⟨he, rfl⟩
      refine (htake _).trans (bind_eq_ok.2 ⟨(k, e.map code, rest), takeModRm_eq_ok.2 ⟨?_, rfl⟩, ?_⟩)
      · exact (RM.wf_map code e).trans he
      · rw [RM.map_map_of_leftInverse ofCode_code]
  total := by
    intro bs h
    obtain ⟨k, c, rest, hread⟩ := takeModRm_total h
    exact ⟨_, rest, (htake bs).trans (bind_eq_ok.2 ⟨_, hread, rfl⟩)⟩
  length_le := fun x => by
    obtain ⟨hlength, hdisp⟩ := length_encodeRm x.1 (x.2.map code)
    omega

theorem Takes.e8 : Takes takeOp8 (fun x => x.2.wf = true) (fun x => encodeE8 x.1 x.2) 3 :=
  Takes.rm (fun _ => bind_assoc ..) Reg8.code_ofCode Reg8.ofCode_code

theorem Takes.e16 : Takes takeOp16 (fun x => x.2.wf = true) (fun x => encodeE16 x.1 x.2) 3 :=
  Takes.rm (fun _ => bind_assoc ..) Reg16.code_ofCode Reg16.ofCode_code

end Sys2Proof
end

section
/-! The family 30_encoding.md, its opcode layer: one rule per shape of an opcode's operands, and by them what every
opcode byte reads, row by row of the opcode map (30_encoding.md R115, R116). -/

namespace Sys2Proof

/-! ### Instructions from operands -/

/-- The instruction `f x` of the operands `x` that `take` reads. -/
def readInstr {α : Type} (take : Reader α) (f : α → Instr) : Reader Instr := fun bs => do
  let (x, bs) ← take bs
  .ok (f x, bs)

/-! The model's shapes are such readers, `withByte` and `withWord` as they stand; the three with an immediate after an
r/m operand it writes out where it needs them. -/

def withE8Byte (f : BitVec 3 → RM8 → Byte → Instr) : Reader Instr := fun bs => do
  let (k, e, bs) ← takeE8 bs
  let (i, bs) ← takeByte bs
  .ok (f k e i, bs)

def withE16Byte (f : BitVec 3 → RM16 → Byte → Instr) : Reader Instr := fun bs => do
  let (k, e, bs) ← takeE16 bs
  let (i, bs) ← takeByte bs
  .ok (f k e i, bs)

def withE16Word (f : BitVec 3 → RM16 → Word → Instr) : Reader Instr := fun bs => do
  let (k, e, bs) ← takeE16 bs
  let (i, bs) ← takeWord bs
  .ok (f k e i, bs)

section Shapes

variable (bs : List Byte)

theorem withFar_eq (f : Word → Word → Instr) :
    withFar f bs = readInstr (takePair takeWord takeWord) (fun x => f x.1 x.2) bs := by
  simp only [withFar, readInstr, takePair, bind_assoc]
  rfl

theorem withE8_eq (f : BitVec 3 → RM8 → Instr) : withE8 f bs = readInstr takeOp8 (fun x => f x.1 x.2) bs := by
  simp only [withE8, readInstr, takeOp8, bind_assoc]
  rfl

theorem withE16_eq (f : BitVec 3 → RM16 → Instr) : withE16 f bs = readInstr takeOp16 (fun x => f x.1 x.2) bs := by
  simp only [withE16, readInstr, takeOp16, bind_assoc]
  rfl

theorem withE8Byte_eq (f : BitVec 3 → RM8 → Byte → Instr) :
    withE8Byte f bs = readInstr (takePair takeOp8 takeByte) (fun x => f x.1.1 x.1.2 x.2) bs := by
  simp only [withE8Byte, readInstr, takePair, takeOp8, bind_assoc]
  rfl

theorem withE16Byte_eq (f : BitVec 3 → RM16 → Byte → Instr) :
    withE16Byte f bs = readInstr (takePair takeOp16 takeByte) (fun x => f x.1.1 x.1.2 x.2) bs := by
  simp only [withE16Byte, readInstr, takePair, takeOp16, bind_assoc]
  rfl

theorem withE16Word_eq (f : BitVec 3 → RM16 → Word → Instr) :
    withE16Word f bs = readInstr (takePair takeOp16 takeWord) (fun x => f x.1.1 x.1.2 x.2) bs := by
  simp only [withE16Word, readInstr, takePair, takeOp16, bind_assoc]
  rfl

end Shapes

/-! ### Group slots (30_encoding.md R116, R118) -/

/-- The byte after the opcode byte `op`, if there is one, names no unimplemented group slot. -/
def SlotImplemented (op : Byte) (bs : List Byte) : Prop := ∀ m ∈ bs.head?, unimplementedSlot op (regField m) = false

theorem slotImplemented_e8 (op : Byte) (k : BitVec 3) (e : RM8) (t : List Byte) :
    SlotImplemented op (encodeE8 k e ++ t) ↔ unimplementedSlot op k = false := by
  obtain ⟨m, tail, hhead, hreg⟩ := encodeRm_head k (e.map Reg8.code)
  simp [SlotImplemented, encodeE8, hhead, hreg]

theorem slotImplemented_e16 (op : Byte) (k : BitVec 3) (e : RM16) (t : List Byte) :
    SlotImplemented op (encodeE16 k e ++ t) ↔ unimplementedSlot op k = false := by
  obtain ⟨m, tail, hhead, hreg⟩ := encodeRm_head k (e.map Reg16.code)
  simp [SlotImplemented, encodeE16, hhead, hreg]

theorem decode_of_slotImplemented {op : Byte} {bs : List Byte} (h : SlotImplemented op bs) :
    decode (op :: bs) = decodeImplemented op bs := by
  cases bs with
  | nil => rfl
  | cons m rest => simp [decode, h m rfl]

theorem decode_of_slotUnimplemented {op m : Byte} (h : unimplementedSlot op (regField m) = true) (rest : List Byte) :
    decode (op :: m :: rest) = .ok (.unimplGroup op m, rest) := by
  simp [decode, h]

/-- An opcode byte outside the groups. -/
theorem decode_of_noSlot {op : Byte} (h : ∀ k, unimplementedSlot op k = false) (bs : List Byte) :
    decode (op :: bs) = decodeImplemented op bs :=
  decode_of_slotImplemented fun _ _ => h _

/-! ### What an opcode byte reads -/

/-- Five bytes after the opcode byte `op` are enough, and what is read there, outside the unimplemented group slots, is
well-formed and encodes to the bytes it was read from. -/
structure Reads (op : Byte) : Prop where
  total : ∀ {bs : List Byte}, 5 ≤ bs.length → ∃ i rest, decodeImplemented op bs = .ok (i, rest)
  reencodes : ∀ {bs i rest}, SlotImplemented op bs → decodeImplemented op bs = .ok (i, rest) →
    i.wf = true ∧ encode i ++ rest = op :: bs

namespace Reads

variable {op : Byte}

theorem const {i : Instr} (row : ∀ bs, decodeImplemented op bs = .ok (i, bs)) (legal : i.wf = true)
    (bytes : encode i = [op]) : Reads op where
  total := fun {bs} _ => ⟨i, bs, row bs⟩
  reencodes := by
    intro bs j rest _ h
    cases (row bs).symm.trans h
    exact ⟨legal, by rw [bytes]; rfl⟩

theorem operands {α : Type} {take : Reader α} {legal : α → Prop} {bytes : α → List Byte} {n : Nat}
    (takes : Takes take legal bytes n) (hn : n ≤ 5) {f : α → Instr}
    (row : ∀ bs, decodeImplemented op bs = readInstr take f bs)
    (sound : ∀ x rest, legal x → SlotImplemented op (bytes x ++ rest) →
      (f x).wf = true ∧ encode (f x) = op :: bytes x) : Reads op where
  total := by
    intro bs h
    obtain ⟨x, rest, hread⟩ := takes.total (hn.trans h)
    exact ⟨f x, rest, (row bs).trans (bind_eq_ok.2 ⟨_, hread, rfl⟩)⟩
  reencodes := by
    intro bs i rest slot h
    obtain ⟨⟨x, tail⟩, hread, hresult⟩ := bind_eq_ok.1 ((row bs).symm.trans h)
    cases hresult
    obtain ⟨hx, rfl⟩ := takes.eq_ok.1 hread
    obtain ⟨hwf, hencode⟩ := sound x rest hx slot
    exact ⟨hwf, by rw [hencode]; rfl⟩

theorem byte {f : Byte → Instr} (row : ∀ bs, decodeImplemented op bs = withByte f bs) (legal : ∀ b, (f b).wf = true)
    (bytes : ∀ b, encode (f b) = [op, b]) : Reads op :=
  operands Takes.byte (by decide) row fun b _ _ _ => ⟨legal b, bytes b⟩

theorem word {f : Word → Instr} (row : ∀ bs, decodeImplemented op bs = withWord f bs) (legal : ∀ w, (f w).wf = true)
    (bytes : ∀ w, encode (f w) = op :: encodeWord w) : Reads op :=
  operands Takes.word (by decide) row fun w _ _ _ => ⟨legal w, bytes w⟩

theorem far {f : Word → Word → Instr} (row : ∀ bs, decodeImplemented op bs = withFar f bs)
    (legal : ∀ off seg, (f off seg).wf = true)
    (bytes : ∀ off seg, encode (f off seg) = op :: (encodeWord off ++ encodeWord seg)) : Reads op :=
  operands (Takes.word.pair Takes.word) (by decide) (fun bs => (row bs).trans (withFar_eq bs f)) fun x _ _ _ =>
    ⟨legal x.1 x.2, bytes x.1 x.2⟩

theorem e8 {f : BitVec 3 → RM8 → Instr} (row : ∀ bs, decodeImplemented op bs = withE8 f bs)
    (legal : ∀ k e, (f k e).wf = e.wf)
    (bytes : ∀ k e, unimplementedSlot op k = false → encode (f k e) = op :: encodeE8 k e) : Reads op :=
  operands Takes.e8 (by decide) (fun bs => (row bs).trans (withE8_eq bs f)) fun x rest hx slot =>
    ⟨(legal x.1 x.2).trans hx, bytes x.1 x.2 ((slotImplemented_e8 op x.1 x.2 rest).1 slot)⟩

theorem e16 {f : BitVec 3 → RM16 → Instr} (row : ∀ bs, decodeImplemented op bs = withE16 f bs)
    (legal : ∀ k e, (f k e).wf = e.wf)
    (bytes : ∀ k e, unimplementedSlot op k = false → encode (f k e) = op :: encodeE16 k e) : Reads op :=
  operands Takes.e16 (by decide) (fun bs => (row bs).trans (withE16_eq bs f)) fun x rest hx slot =>
    ⟨(legal x.1 x.2).trans hx, bytes x.1 x.2 ((slotImplemented_e16 op x.1 x.2 rest).1 slot)⟩

/-- An opcode whose `reg` field names a byte register. -/
theorem reg8 (f : Reg8 → RM8 → Instr) (row : ∀ bs, decodeImplemented op bs = withE8 (fun k => f (Reg8.ofCode k)) bs)
    (legal : ∀ r e, (f r e).wf = e.wf)
    (bytes : ∀ r e, encode (f r e) = op :: encodeE8 r.code e) : Reads op :=
  e8 row (fun k => legal (Reg8.ofCode k)) fun k e _ => by rw [bytes, Reg8.code_ofCode]

/-- An opcode whose `reg` field names a word register. -/
theorem reg16 (f : Reg16 → RM16 → Instr)
    (row : ∀ bs, decodeImplemented op bs = withE16 (fun k => f (Reg16.ofCode k)) bs)
    (legal : ∀ r e, (f r e).wf = e.wf)
    (bytes : ∀ r e, encode (f r e) = op :: encodeE16 r.code e) : Reads op :=
  e16 row (fun k => legal (Reg16.ofCode k)) fun k e _ => by rw [bytes, Reg16.code_ofCode]

theorem e8Byte {f : BitVec 3 → RM8 → Byte → Instr} (row : ∀ bs, decodeImplemented op bs = withE8Byte f bs)
    (legal : ∀ k e i, (f k e i).wf = e.wf)
    (bytes : ∀ k e i, encode (f k e i) = op :: (encodeE8 k e ++ [i])) : Reads op :=
  operands (Takes.e8.pair Takes.byte) (by decide) (fun bs => (row bs).trans (withE8Byte_eq bs f)) fun x _ hx _ =>
    ⟨(legal x.1.1 x.1.2 x.2).trans hx.1, bytes x.1.1 x.1.2 x.2⟩

theorem e16Byte {f : BitVec 3 → RM16 → Byte → Instr} (row : ∀ bs, decodeImplemented op bs = withE16Byte f bs)
    (legal : ∀ k e i, (f k e i).wf = e.wf)
    (bytes : ∀ k e i, encode (f k e i) = op :: (encodeE16 k e ++ [i])) : Reads op :=
  operands (Takes.e16.pair Takes.byte) (by decide) (fun bs => (row bs).trans (withE16Byte_eq bs f)) fun x _ hx _ =>
    ⟨(legal x.1.1 x.1.2 x.2).trans hx.1, bytes x.1.1 x.1.2 x.2⟩

theorem e16Word {f : BitVec 3 → RM16 → Word → Instr} (row : ∀ bs, decodeImplemented op bs = withE16Word f bs)
    (legal : ∀ k e i, (f k e i).wf = e.wf)
    (bytes : ∀ k e i, encode (f k e i) = op :: (encodeE16 k e ++ encodeWord i)) : Reads op :=
  operands (Takes.e16.pair Takes.word) (by decide) (fun bs => (row bs).trans (withE16Word_eq bs f)) fun x _ hx _ =>
    ⟨(legal x.1.1 x.1.2 x.2).trans hx.1, bytes x.1.1 x.1.2 x.2⟩

end Reads

end Sys2Proof
end

section
/-! The family 30_encoding.md, the opcode map (30_encoding.md R115, R116): every opcode byte has an entry, and reads
what the encoder writes. An opcode byte is split into its octal digits, the fields `modRmByte` puts together. -/

namespace Sys2Proof

/-! ### The instructions of the groups against their encodings -/

theorem wf_aluInstr (k : BitVec 3) (f : AluForm) : (aluInstr k f).wf = f.wf := by cases k using octal_cases <;> rfl

theorem encode_aluInstr (k : BitVec 3) (f : AluForm) : encode (aluInstr k f) = encodeAlu k f := by
  cases k using octal_cases <;> rfl

theorem wf_shiftInstr (k : BitVec 3) (f : ShiftForm) : (shiftInstr k f).wf = f.wf := by
  cases k using octal_cases <;> rfl

theorem encode_shiftInstr {k : BitVec 3} (h : k ≠ 6) (f : ShiftForm) : encode (shiftInstr k f) = encodeShift k f := by
  cases k using octal_cases with
  | v6 => exact absurd rfl h
  | _ => rfl

theorem wf_unaryInstr (k : BitVec 3) (f : UnForm) : (unaryInstr k f).wf = f.wf := by
  cases k using octal_cases <;> rfl

theorem encode_unaryInstr {k : BitVec 3} (h0 : k ≠ 0) (h1 : k ≠ 1) (f : UnForm) :
    encode (unaryInstr k f) = encodeUnary k f := by
  cases k using octal_cases with
  | v0 => exact absurd rfl h0
  | v1 => exact absurd rfl h1
  | _ => rfl

theorem wf_grp5Instr (k : BitVec 3) (e : RM16) : (grp5Instr k e).wf = e.wf := by cases k using octal_cases <;> rfl

theorem encode_grp5Instr {k : BitVec 3} (h : k ≠ 7) (e : RM16) : encode (grp5Instr k e) = 0xFF :: encodeE16 k e := by
  cases k using octal_cases with
  | v7 => exact absurd rfl h
  | _ => rfl

/-! ### Rows 00 to 38: the two-operand family -/

theorem decodeImplemented_aluOpcode (k lo : BitVec 3) (bs : List Byte) :
    decodeImplemented (aluOpcode k lo) bs = decodeAluRow k lo bs := by
  cases k using octal_cases <;> cases lo using octal_cases <;> rfl

section AluRow

variable (k : BitVec 3) (bs : List Byte)

/-- The first six opcodes of a row read a form: `form`, what the reader `take` gives it. -/
theorem decodeAluRow_form {α : Type} {lo : BitVec 3} {take : Reader α} {form : α → AluForm} (h : lo.toNat < 6)
    (hform : takeAluForm lo bs = take bs >>= fun x => .ok (form x.1, x.2)) :
    decodeAluRow k lo bs = readInstr take (fun x => aluInstr k (form x)) bs := by
  rw [decodeAluRow, if_pos h, hform, bind_assoc]
  rfl

theorem decodeAluRow_e8 {lo : BitVec 3} {form : BitVec 3 → RM8 → AluForm} (h : lo.toNat < 6)
    (hform : takeAluForm lo bs = takeE8 bs >>= fun x => .ok (form x.1 x.2.1, x.2.2)) :
    decodeAluRow k lo bs = withE8 (fun g e => aluInstr k (form g e)) bs := by
  rw [decodeAluRow, if_pos h, hform, bind_assoc]
  rfl

theorem decodeAluRow_e16 {lo : BitVec 3} {form : BitVec 3 → RM16 → AluForm} (h : lo.toNat < 6)
    (hform : takeAluForm lo bs = takeE16 bs >>= fun x => .ok (form x.1 x.2.1, x.2.2)) :
    decodeAluRow k lo bs = withE16 (fun g e => aluInstr k (form g e)) bs := by
  rw [decodeAluRow, if_pos h, hform, bind_assoc]
  rfl

theorem decodeAluRow_ebGb : decodeAluRow k 0 bs = withE8 (fun g e => aluInstr k (.ebGb e (Reg8.ofCode g))) bs :=
  decodeAluRow_e8 k bs (by decide) rfl

theorem decodeAluRow_evGv : decodeAluRow k 1 bs = withE16 (fun g e => aluInstr k (.evGv e (Reg16.ofCode g))) bs :=
  decodeAluRow_e16 k bs (by decide) rfl

theorem decodeAluRow_gbEb : decodeAluRow k 2 bs = withE8 (fun g e => aluInstr k (.gbEb (Reg8.ofCode g) e)) bs :=
  decodeAluRow_e8 k bs (by decide) rfl

theorem decodeAluRow_gvEv : decodeAluRow k 3 bs = withE16 (fun g e => aluInstr k (.gvEv (Reg16.ofCode g) e)) bs :=
  decodeAluRow_e16 k bs (by decide) rfl

theorem decodeAluRow_alIb : decodeAluRow k 4 bs = withByte (fun i => aluInstr k (.alIb i)) bs :=
  decodeAluRow_form k bs (by decide) rfl

theorem decodeAluRow_axIv : decodeAluRow k 5 bs = withWord (fun i => aluInstr k (.axIv i)) bs :=
  decodeAluRow_form k bs (by decide) rfl

end AluRow

theorem reads_aluOpcode (k lo : BitVec 3) : Reads (aluOpcode k lo) := by
  have row := decodeImplemented_aluOpcode k
  have legal := wf_aluInstr k
  have bytes := encode_aluInstr k
  cases lo using octal_cases with
  | v0 =>
    exact .reg8 (fun g e => aluInstr k (.ebGb e g)) (fun bs => (row 0 bs).trans (decodeAluRow_ebGb k bs))
      (fun _ _ => legal _) fun _ _ => bytes _
  | v1 =>
    exact .reg16 (fun g e => aluInstr k (.evGv e g)) (fun bs => (row 1 bs).trans (decodeAluRow_evGv k bs))
      (fun _ _ => legal _) fun _ _ => bytes _
  | v2 =>
    exact .reg8 (fun g e => aluInstr k (.gbEb g e)) (fun bs => (row 2 bs).trans (decodeAluRow_gbEb k bs))
      (fun _ _ => legal _) fun _ _ => bytes _
  | v3 =>
    exact .reg16 (fun g e => aluInstr k (.gvEv g e)) (fun bs => (row 3 bs).trans (decodeAluRow_gvEv k bs))
      (fun _ _ => legal _) fun _ _ => bytes _
  | v4 =>
    exact .byte (fun bs => (row 4 bs).trans (decodeAluRow_alIb k bs)) (fun _ => legal _) fun _ => bytes _
  | v5 =>
    exact .word (fun bs => (row 5 bs).trans (decodeAluRow_axIv k bs)) (fun _ => legal _) fun _ => bytes _
  | v6 | v7 => cases k using octal_cases <;> exact .const (fun _ => rfl) rfl rfl

/-! ### Rows 40 to 78: register opcodes, the unimplemented 60 to 6F, conditional jumps -/

theorem reads_quarter1 (mid lo : BitVec 3) : Reads (modRmByte 1 mid lo) := by
  cases mid using octal_cases with
  | v0 | v1 | v2 | v3 | v4 | v5 => cases lo using octal_cases <;> exact .const (fun _ => rfl) rfl rfl
  | v6 | v7 => cases lo using octal_cases <;> exact .byte (fun _ => rfl) (fun _ => rfl) fun _ => rfl

/-! ### Rows 80 to B8 -/

theorem reads_row80 (lo : BitVec 3) : Reads (modRmByte 2 0 lo) := by
  cases lo using octal_cases with
  | v0 =>
    exact .e8Byte (f := fun k e i => aluInstr k (.ebIb e i)) (fun _ => rfl) (fun k _ _ => wf_aluInstr k _)
      fun k _ _ => encode_aluInstr k _
  | v1 =>
    exact .e16Word (f := fun k e i => aluInstr k (.evIv e i)) (fun _ => rfl) (fun k _ _ => wf_aluInstr k _)
      fun k _ _ => encode_aluInstr k _
  | v2 =>
    exact .e8Byte (f := fun k e i => aluInstr k (.ebIbAlt e i)) (fun _ => rfl) (fun k _ _ => wf_aluInstr k _)
      fun k _ _ => encode_aluInstr k _
  | v3 =>
    exact .e16Byte (f := fun k e i => aluInstr k (.evIbSx e i)) (fun _ => rfl) (fun k _ _ => wf_aluInstr k _)
      fun k _ _ => encode_aluInstr k _
  | v4 => exact .reg8 (fun g e => .test (.gbEb g e)) (fun _ => rfl) (fun _ _ => rfl) fun _ _ => rfl
  | v5 => exact .reg16 (fun g e => .test (.gvEv g e)) (fun _ => rfl) (fun _ _ => rfl) fun _ _ => rfl
  | v6 => exact .reg8 (fun g e => .xchg (.gbEb g e)) (fun _ => rfl) (fun _ _ => rfl) fun _ _ => rfl
  | v7 => exact .reg16 (fun g e => .xchg (.gvEv g e)) (fun _ => rfl) (fun _ _ => rfl) fun _ _ => rfl

theorem reads_row88 (lo : BitVec 3) : Reads (modRmByte 2 1 lo) := by
  cases lo using octal_cases with
  | v0 => exact .reg8 (fun g e => .mov (.ebGb e g)) (fun _ => rfl) (fun _ _ => rfl) fun _ _ => rfl
  | v1 => exact .reg16 (fun g e => .mov (.evGv e g)) (fun _ => rfl) (fun _ _ => rfl) fun _ _ => rfl
  | v2 => exact .reg8 (fun g e => .mov (.gbEb g e)) (fun _ => rfl) (fun _ _ => rfl) fun _ _ => rfl
  | v3 => exact .reg16 (fun g e => .mov (.gvEv g e)) (fun _ => rfl) (fun _ _ => rfl) fun _ _ => rfl
  | v5 => exact .reg16 (fun g e => .lea g e) (fun _ => rfl) (fun _ _ => rfl) fun _ _ => rfl
  | v4 => exact .e16 (f := fun k e => .movFromSeg e k) (fun _ => rfl) (fun _ _ => rfl) fun _ _ _ => rfl
  | v6 => exact .e16 (f := fun k e => .movToSeg k e) (fun _ => rfl) (fun _ _ => rfl) fun _ _ _ => rfl
  | v7 => exact .e16 (f := fun k e => .popRm k e) (fun _ => rfl) (fun _ _ => rfl) fun _ _ _ => rfl

theorem reads_row98 (lo : BitVec 3) : Reads (modRmByte 2 3 lo) := by
  cases lo using octal_cases with
  | v2 => exact .far (fun _ => rfl) (fun _ _ => rfl) fun _ _ => rfl
  | v0 | v1 | v3 | v4 | v5 | v6 | v7 => exact .const (fun _ => rfl) rfl rfl

theorem reads_rowA0 (lo : BitVec 3) : Reads (modRmByte 2 4 lo) := by
  cases lo using octal_cases with
  | v0 => exact .word (f := fun off => .movMoffs (.alOb off)) (fun _ => rfl) (fun _ => rfl) fun _ => rfl
  | v1 => exact .word (f := fun off => .movMoffs (.axOv off)) (fun _ => rfl) (fun _ => rfl) fun _ => rfl
  | v2 => exact .word (f := fun off => .movMoffs (.obAl off)) (fun _ => rfl) (fun _ => rfl) fun _ => rfl
  | v3 => exact .word (f := fun off => .movMoffs (.ovAx off)) (fun _ => rfl) (fun _ => rfl) fun _ => rfl
  | v4 | v5 | v6 | v7 => exact .const (fun _ => rfl) rfl rfl

theorem reads_rowA8 (lo : BitVec 3) : Reads (modRmByte 2 5 lo) := by
  cases lo using octal_cases with
  | v0 => exact .byte (f := fun i => .test (.alIb i)) (fun _ => rfl) (fun _ => rfl) fun _ => rfl
  | v1 => exact .word (f := fun i => .test (.axIv i)) (fun _ => rfl) (fun _ => rfl) fun _ => rfl
  | v2 | v3 | v4 | v5 | v6 | v7 => exact .const (fun _ => rfl) rfl rfl

theorem reads_rowB0 (lo : BitVec 3) : Reads (modRmByte 2 6 lo) :=
  .byte (f := fun i => .movRegImm (.r8 (Reg8.ofCode lo) i)) (by cases lo using octal_cases <;> exact fun _ => rfl)
    (fun _ => rfl) fun i => congrArg (fun c => [opWithReg 22 c, i]) (Reg8.code_ofCode lo)

theorem reads_rowB8 (lo : BitVec 3) : Reads (modRmByte 2 7 lo) :=
  .word (f := fun i => .movRegImm (.r16 (Reg16.ofCode lo) i)) (by cases lo using octal_cases <;> exact fun _ => rfl)
    (fun _ => rfl) fun i => congrArg (fun c => opWithReg 23 c :: encodeWord i) (Reg16.code_ofCode lo)

theorem reads_quarter2 (mid lo : BitVec 3) : Reads (modRmByte 2 mid lo) := by
  cases mid using octal_cases with
  | v0 => exact reads_row80 lo
  | v1 => exact reads_row88 lo
  | v2 => cases lo using octal_cases <;> exact .const (fun _ => rfl) rfl rfl
  | v3 => exact reads_row98 lo
  | v4 => exact reads_rowA0 lo
  | v5 => exact reads_rowA8 lo
  | v6 => exact reads_rowB0 lo
  | v7 => exact reads_rowB8 lo

/-! ### Rows C0 to F8 -/

theorem reads_rowC0 (lo : BitVec 3) : Reads (modRmByte 3 0 lo) := by
  cases lo using octal_cases with
  | v0 | v1 | v3 => exact .const (fun _ => rfl) rfl rfl
  | v2 => exact .word (fun _ => rfl) (fun _ => rfl) fun _ => rfl
  | v4 => exact .reg16 (fun g e => .les g e) (fun _ => rfl) (fun _ _ => rfl) fun _ _ => rfl
  | v5 => exact .reg16 (fun g e => .lds g e) (fun _ => rfl) (fun _ _ => rfl) fun _ _ => rfl
  | v6 =>
    exact .e8Byte (f := fun k e i => .movImm (.ebIb k e i)) (fun _ => rfl) (fun _ _ _ => rfl) fun _ _ _ => rfl
  | v7 =>
    exact .e16Word (f := fun k e i => .movImm (.evIv k e i)) (fun _ => rfl) (fun _ _ _ => rfl) fun _ _ _ => rfl

theorem reads_rowC8 (lo : BitVec 3) : Reads (modRmByte 3 1 lo) := by
  cases lo using octal_cases with
  | v2 => exact .word (fun _ => rfl) (fun _ => rfl) fun _ => rfl
  | v5 => exact .byte (fun _ => rfl) (fun _ => rfl) fun _ => rfl
  | v0 | v1 | v3 | v4 | v6 | v7 => exact .const (fun _ => rfl) rfl rfl

theorem ne_of_slot {op : Byte} {k c : BitVec 3} (hc : unimplementedSlot op c = true)
    (h : unimplementedSlot op k = false) : k ≠ c := by
  rintro rfl
  exact Bool.noConfusion (hc.symm.trans h)

theorem reads_rowD0 (lo : BitVec 3) : Reads (modRmByte 3 2 lo) := by
  cases lo using octal_cases with
  | v0 =>
    exact .e8 (f := fun k e => shiftInstr k (.eb1 e)) (fun _ => rfl) (fun k _ => wf_shiftInstr k _)
      fun _ _ h => encode_shiftInstr (ne_of_slot rfl h) _
  | v1 =>
    exact .e16 (f := fun k e => shiftInstr k (.ev1 e)) (fun _ => rfl) (fun k _ => wf_shiftInstr k _)
      fun _ _ h => encode_shiftInstr (ne_of_slot rfl h) _
  | v2 =>
    exact .e8 (f := fun k e => shiftInstr k (.ebCl e)) (fun _ => rfl) (fun k _ => wf_shiftInstr k _)
      fun _ _ h => encode_shiftInstr (ne_of_slot rfl h) _
  | v3 =>
    exact .e16 (f := fun k e => shiftInstr k (.evCl e)) (fun _ => rfl) (fun k _ => wf_shiftInstr k _)
      fun _ _ h => encode_shiftInstr (ne_of_slot rfl h) _
  | v4 | v5 => exact .byte (fun _ => rfl) (fun _ => rfl) fun _ => rfl
  | v6 | v7 => exact .const (fun _ => rfl) rfl rfl

theorem reads_rowE0 (lo : BitVec 3) : Reads (modRmByte 3 4 lo) := by
  cases lo using octal_cases <;> exact .byte (fun _ => rfl) (fun _ => rfl) fun _ => rfl

theorem reads_rowE8 (lo : BitVec 3) : Reads (modRmByte 3 5 lo) := by
  cases lo using octal_cases with
  | v0 => exact .word (fun _ => rfl) (fun _ => rfl) fun _ => rfl
  | v1 => exact .word (f := fun rel => .jmpRel (.near rel)) (fun _ => rfl) (fun _ => rfl) fun _ => rfl
  | v2 => exact .far (fun _ => rfl) (fun _ _ => rfl) fun _ _ => rfl
  | v3 => exact .byte (f := fun rel => .jmpRel (.short rel)) (fun _ => rfl) (fun _ => rfl) fun _ => rfl
  | v4 | v5 | v6 | v7 => exact .const (fun _ => rfl) rfl rfl

/-! GRP3: `/0` alone, TEST, has an immediate after the operand; the rule is for either width. -/

/-- The operands of a GRP3 opcode: the `reg` field and the r/m operand, and an immediate when the field is 0. -/
def takeGrp3 {E I : Type} (te : Reader (BitVec 3 × E)) (ti : Reader I) : Reader ((BitVec 3 × E) × Option I) :=
  fun bs => do
    let (x, bs) ← te bs
    if x.1 = 0 then
      let (i, bs) ← ti bs
      .ok ((x, some i), bs)
    else .ok ((x, none), bs)

/-- The immediate is there exactly when the `reg` field is 0. -/
def grp3Legal {E I : Type} (le : BitVec 3 × E → Prop) (li : I → Prop) : (BitVec 3 × E) × Option I → Prop
  | (x, some i) => le x ∧ li i ∧ x.1 = 0
  | (x, none) => le x ∧ x.1 ≠ 0

def grp3Bytes {E I : Type} (be : BitVec 3 × E → List Byte) (bi : I → List Byte) :
    (BitVec 3 × E) × Option I → List Byte
  | (x, some i) => be x ++ bi i
  | (x, none) => be x

theorem Takes.grp3 {E I : Type} {te : Reader (BitVec 3 × E)} {ti : Reader I} {le : BitVec 3 × E → Prop}
    {li : I → Prop} {be : BitVec 3 × E → List Byte} {bi : I → List Byte} {m n : Nat} (he : Takes te le be m)
    (hi : Takes ti li bi n) : Takes (takeGrp3 te ti) (grp3Legal le li) (grp3Bytes be bi) (m + n) where
  eq_ok := by
    intro bs y rest
    constructor
    · intro h
      obtain ⟨⟨x, tail⟩, hx, hread⟩ := bind_eq_ok.1 h
      obtain ⟨hle, rfl⟩ := he.eq_ok.1 hx
      dsimp only at hread
      split at hread
      next zero =>
        obtain ⟨⟨i, rest'⟩, hti, hresult⟩ := bind_eq_ok.1 hread
        cases hresult
        obtain ⟨hli, rfl⟩ := hi.eq_ok.1 hti
        exact ⟨⟨hle, hli, zero⟩, (List.append_assoc ..).symm⟩
      next notZero =>
        cases hread
        exact ⟨⟨hle, notZero⟩, rfl⟩
    · rintro ⟨legal, rfl⟩
      match y with
      | (x, some i) =>
        obtain ⟨hle, hli, zero⟩ := legal
        refine bind_eq_ok.2 ⟨(x, bi i ++ rest), he.eq_ok.2 ⟨hle, List.append_assoc ..⟩, (if_pos zero).trans ?_⟩
        exact bind_eq_ok.2 ⟨_, hi.eq_ok.2 ⟨hli, rfl⟩, rfl⟩
      | (x, none) => exact bind_eq_ok.2 ⟨(x, rest), he.eq_ok.2 ⟨legal.1, rfl⟩, if_neg legal.2⟩
  total := by
    intro bs h
    obtain ⟨x, tail, hx⟩ := he.total (Nat.le_of_add_right_le h)
    obtain ⟨-, rfl⟩ := he.eq_ok.1 hx
    have := he.length_le x
    obtain ⟨i, rest, hti⟩ := hi.total (bs := tail) (by rw [List.length_append] at h; omega)
    by_cases zero : x.1 = 0
    · exact ⟨_, rest, bind_eq_ok.2 ⟨_, hx, (if_pos zero).trans (bind_eq_ok.2 ⟨_, hti, rfl⟩)⟩⟩
    · exact ⟨_, tail, bind_eq_ok.2 ⟨_, hx, if_neg zero⟩⟩
  length_le := by
    rintro ⟨x, _ | i⟩
    · exact (he.length_le x).trans (Nat.le_add_right m n)
    · exact List.length_append.trans_le (Nat.add_le_add (he.length_le x) (hi.length_le i))

def grp3aInstr : (BitVec 3 × RM8) × Option Byte → Instr
  | (x, some i) => .test (.ebIb x.2 i)
  | (x, none) => unaryInstr x.1 (.eb x.2)

def grp3bInstr : (BitVec 3 × RM16) × Option Word → Instr
  | (x, some i) => .test (.evIv x.2 i)
  | (x, none) => unaryInstr x.1 (.ev x.2)

theorem readInstr_takeGrp3 {E I : Type} (te : Reader (BitVec 3 × E)) (ti : Reader I)
    (f : (BitVec 3 × E) × Option I → Instr) (bs : List Byte) : readInstr (takeGrp3 te ti) f bs =
      te bs >>= fun y => if y.1.1 = 0 then ti y.2 >>= fun z => .ok (f (y.1, some z.1), z.2)
        else .ok (f (y.1, none), y.2) := by
  simp only [readInstr, takeGrp3, bind_assoc]
  congr 1
  funext y
  split
  · exact bind_assoc ..
  · rfl

theorem decodeGrp3a_eq (bs : List Byte) : decodeGrp3a bs = readInstr (takeGrp3 takeOp8 takeByte) grp3aInstr bs := by
  rw [readInstr_takeGrp3, takeOp8, bind_assoc]
  rfl

theorem decodeGrp3b_eq (bs : List Byte) : decodeGrp3b bs = readInstr (takeGrp3 takeOp16 takeWord) grp3bInstr bs := by
  rw [readInstr_takeGrp3, takeOp16, bind_assoc]
  rfl

theorem reads_F6 : Reads 0xF6 := by
  refine .operands (Takes.e8.grp3 Takes.byte) (by decide) decodeGrp3a_eq fun y rest legal slot => ?_
  match y with
  | ((k, e), some i) =>
    obtain ⟨he, -, rfl⟩ := legal
    exact ⟨he, rfl⟩
  | ((k, e), none) =>
    obtain ⟨he, notZero⟩ := legal
    have slot := (slotImplemented_e8 _ k e rest).1 slot
    exact ⟨(wf_unaryInstr k _).trans he, encode_unaryInstr notZero (ne_of_slot rfl slot) _⟩

theorem reads_F7 : Reads 0xF7 := by
  refine .operands (Takes.e16.grp3 Takes.word) (by decide) decodeGrp3b_eq fun y rest legal slot => ?_
  match y with
  | ((k, e), some i) =>
    obtain ⟨he, -, rfl⟩ := legal
    exact ⟨he, rfl⟩
  | ((k, e), none) =>
    obtain ⟨he, notZero⟩ := legal
    have slot := (slotImplemented_e16 _ k e rest).1 slot
    exact ⟨(wf_unaryInstr k _).trans he, encode_unaryInstr notZero (ne_of_slot rfl slot) _⟩

theorem reads_rowF0 (lo : BitVec 3) : Reads (modRmByte 3 6 lo) := by
  cases lo using octal_cases with
  | v6 => exact reads_F6
  | v7 => exact reads_F7
  | v0 | v1 | v2 | v3 | v4 | v5 => exact .const (fun _ => rfl) rfl rfl

/-! GRP4 and GRP5. -/

theorem reads_rowF8 (lo : BitVec 3) : Reads (modRmByte 3 7 lo) := by
  cases lo using octal_cases with
  | v6 =>
    refine .e8 (f := fun k e => if k = 0 then .inc (.eb e) else .dec (.eb e)) (fun _ => rfl) (fun k e => ?_)
      fun k e slot => ?_
    · split <;> rfl
    · cases k using octal_cases with
      | v0 | v1 => rfl
      | _ => cases slot
  | v7 => exact .e16 (f := grp5Instr) (fun _ => rfl) wf_grp5Instr fun _ _ h => encode_grp5Instr (ne_of_slot rfl h) _
  | v0 | v1 | v2 | v3 | v4 | v5 => exact .const (fun _ => rfl) rfl rfl

theorem reads_quarter3 (mid lo : BitVec 3) : Reads (modRmByte 3 mid lo) := by
  cases mid using octal_cases with
  | v0 => exact reads_rowC0 lo
  | v1 => exact reads_rowC8 lo
  | v2 => exact reads_rowD0 lo
  | v3 => cases lo using octal_cases <;> exact .e16 (fun _ => rfl) (fun _ _ => rfl) fun _ _ _ => rfl
  | v4 => exact reads_rowE0 lo
  | v5 => exact reads_rowE8 lo
  | v6 => exact reads_rowF0 lo
  | v7 => exact reads_rowF8 lo

/-! ### The whole map -/

/-- Every opcode byte has an entry, by the quarter of the map it stands in. -/
theorem reads (op : Byte) : Reads op := by
  have quarters : ∀ d : BitVec 2, d = 0 ∨ d = 1 ∨ d = 2 ∨ d = 3 := by decide
  rw [← modRmByte_fields op]
  rcases quarters (modField op) with h | h | h | h <;> rw [h]
  · exact reads_aluOpcode _ _
  · exact reads_quarter1 _ _
  · exact reads_quarter2 _ _
  · exact reads_quarter3 _ _

end Sys2Proof
end

section
/-! The family 30_encoding.md: the decoder against the encoder, and the unimplemented encodings (30_encoding.md R90,
R113 to R118, R124). -/

namespace Sys2Proof

theorem slot_cases (op : Byte) (bs : List Byte) :
    SlotImplemented op bs ∨ ∃ m rest, bs = m :: rest ∧ unimplementedSlot op (regField m) = true := by
  match bs with
  | [] => exact .inl nofun
  | m :: rest =>
    cases slot : unimplementedSlot op (regField m) with
    | true => exact .inr ⟨m, rest, rfl, slot⟩
    | false => exact .inl (by simpa [SlotImplemented] using slot)

/-- Settles O2: an unimplemented group slot is kept as its two bytes; every other opcode byte reads what the encoder
writes. -/
theorem encodeInvertsDecode : Obligations.EncodeInvertsDecode := by
  intro bs rest i h
  match bs with
  | [] => cases h
  | op :: tail =>
    obtain slot | ⟨m, tail, rfl, slot⟩ := slot_cases op tail
    · exact (reads op).reencodes slot ((decode_of_slotImplemented slot).symm.trans h)
    · cases (decode_of_slotUnimplemented slot tail).symm.trans h
      exact ⟨slot, rfl⟩

/-! ### Lengths -/

open Laws.EncodedLength in
/-- The encoder writes as many bytes as the instruction's length says. -/
theorem encodedLength (i : Instr) : Statement i := by
  cases i with
  | add f | or f | adc f | sbb f | and f | sub f | xor f | cmp f => exact of_alu _ f
  | test f => exact of_test f
  | inc f | dec f => exact of_incDec _ _ f
  | neg f | not f | mul f | imul f | div f | idiv f => exact of_unary _ f
  | rol f | ror f | rcl f | rcr f | shl f | shr f | sar f => exact of_shift _ f
  | mov f => exact of_mov f
  | movImm f => exact movImm f
  | movRegImm f => exact movRegImm f
  | movMoffs f => exact movMoffs f
  | xchg f => exact xchg f
  | movFromSeg e | movToSeg _ e | lea _ e | lds _ e | les _ e | pushRm e | popRm _ e
  | jmpRm e | jmpFarMem e | callRm e | callFarMem e | esc _ _ e => exact of_e16_end _ _ e
  | pushSeg sr => exact pushSeg sr
  | popSeg sr => exact popSeg sr
  | jmpRel f => exact jmpRel f
  | inImm w p => exact inImm w p
  | inDx w => exact inDx w
  | outImm w p => exact outImm w p
  | outDx w => exact outDx w
  | _ => exact ⟨rfl, Nat.le_of_ble_eq_true rfl⟩

/-- Settles O3: that every opcode byte has an entry gives totality; the length is that of the encoding, which is the
bytes consumed by O2. -/
theorem decodeIsTotalWithLength : Obligations.DecodeIsTotalWithLength := by
  intro bs
  constructor
  · intro h
    match bs with
    | op :: tail =>
      obtain slot | ⟨m, tail, rfl, slot⟩ := slot_cases op tail
      · rw [decode_of_slotImplemented slot]
        exact (reads op).total (Nat.le_of_succ_le_succ h)
      · exact ⟨_, _, decode_of_slotUnimplemented slot tail⟩
  · intro i rest h
    obtain ⟨-, hbytes⟩ := encodeInvertsDecode bs rest i h
    obtain ⟨hlen, hmax⟩ := encodedLength i
    rw [← hbytes, List.length_append, hlen]
    exact ⟨rfl, hmax⟩

end Sys2Proof
end

section
/-! The family 30_encoding.md, its decoding layer: what the decoder answers on the bytes the encoder writes, by the same
shapes and the same rows of the opcode map (30_encoding.md R115, R116). -/

namespace Sys2Proof

/-! ### One rule per shape -/

section Shapes

variable {op : Byte} {rest : List Byte}

theorem decode_operands {α : Type} {take : Reader α} {legal : α → Prop} {bytes : α → List Byte} {n : Nat}
    (takes : Takes take legal bytes n) {f : α → Instr} (row : ∀ bs, decodeImplemented op bs = readInstr take f bs)
    {x : α} (hx : legal x) (slot : SlotImplemented op (bytes x ++ rest)) :
    decode (op :: (bytes x ++ rest)) = .ok (f x, rest) := by
  rw [decode_of_slotImplemented slot, row]
  exact bind_eq_ok.2 ⟨_, takes.eq_ok.2 ⟨hx, rfl⟩, rfl⟩

theorem decode_e8 {f : BitVec 3 → RM8 → Instr} (row : ∀ bs, decodeImplemented op bs = withE8 f bs) {k : BitVec 3}
    (slot : unimplementedSlot op k = false) {e : RM8} (he : e.wf = true) :
    decode (op :: (encodeE8 k e ++ rest)) = .ok (f k e, rest) :=
  decode_operands Takes.e8 (fun bs => (row bs).trans (withE8_eq bs f)) (x := (k, e)) he
    ((slotImplemented_e8 op k e rest).2 slot)

theorem decode_e16 {f : BitVec 3 → RM16 → Instr} (row : ∀ bs, decodeImplemented op bs = withE16 f bs) {k : BitVec 3}
    (slot : unimplementedSlot op k = false) {e : RM16} (he : e.wf = true) :
    decode (op :: (encodeE16 k e ++ rest)) = .ok (f k e, rest) :=
  decode_operands Takes.e16 (fun bs => (row bs).trans (withE16_eq bs f)) (x := (k, e)) he
    ((slotImplemented_e16 op k e rest).2 slot)

/-! The other shapes stand at no group opcode with an unimplemented slot. -/

variable (noSlot : ∀ k, unimplementedSlot op k = false)

include noSlot

theorem decode_reg8 (f : Reg8 → RM8 → Instr)
    (row : ∀ bs, decodeImplemented op bs = withE8 (fun k => f (Reg8.ofCode k)) bs) (r : Reg8) {e : RM8}
    (he : e.wf = true) : decode (op :: (encodeE8 r.code e ++ rest)) = .ok (f r e, rest) := by
  rw [decode_e8 row (noSlot _) he, Reg8.ofCode_code]

theorem decode_reg16 (f : Reg16 → RM16 → Instr)
    (row : ∀ bs, decodeImplemented op bs = withE16 (fun k => f (Reg16.ofCode k)) bs) (r : Reg16) {e : RM16}
    (he : e.wf = true) : decode (op :: (encodeE16 r.code e ++ rest)) = .ok (f r e, rest) := by
  rw [decode_e16 row (noSlot _) he, Reg16.ofCode_code]

theorem decode_word {f : Word → Instr} (row : ∀ bs, decodeImplemented op bs = withWord f bs) (w : Word) :
    decode (op :: (encodeWord w ++ rest)) = .ok (f w, rest) :=
  decode_operands Takes.word row trivial fun _ _ => noSlot _

theorem decode_far {f : Word → Word → Instr} (row : ∀ bs, decodeImplemented op bs = withFar f bs) (off seg : Word) :
    decode (op :: ((encodeWord off ++ encodeWord seg) ++ rest)) = .ok (f off seg, rest) :=
  decode_operands (Takes.word.pair Takes.word) (fun bs => (row bs).trans (withFar_eq bs f)) (x := (off, seg))
    ⟨trivial, trivial⟩ fun _ _ => noSlot _

theorem decode_e8Byte {f : BitVec 3 → RM8 → Byte → Instr} (row : ∀ bs, decodeImplemented op bs = withE8Byte f bs)
    (k : BitVec 3) {e : RM8} (he : e.wf = true) (i : Byte) :
    decode (op :: ((encodeE8 k e ++ [i]) ++ rest)) = .ok (f k e i, rest) :=
  decode_operands (Takes.e8.pair Takes.byte) (fun bs => (row bs).trans (withE8Byte_eq bs f)) (x := ((k, e), i))
    ⟨he, trivial⟩ fun _ _ => noSlot _

theorem decode_e16Byte {f : BitVec 3 → RM16 → Byte → Instr} (row : ∀ bs, decodeImplemented op bs = withE16Byte f bs)
    (k : BitVec 3) {e : RM16} (he : e.wf = true) (i : Byte) :
    decode (op :: ((encodeE16 k e ++ [i]) ++ rest)) = .ok (f k e i, rest) :=
  decode_operands (Takes.e16.pair Takes.byte) (fun bs => (row bs).trans (withE16Byte_eq bs f)) (x := ((k, e), i))
    ⟨he, trivial⟩ fun _ _ => noSlot _

theorem decode_e16Word {f : BitVec 3 → RM16 → Word → Instr} (row : ∀ bs, decodeImplemented op bs = withE16Word f bs)
    (k : BitVec 3) {e : RM16} (he : e.wf = true) (i : Word) :
    decode (op :: ((encodeE16 k e ++ encodeWord i) ++ rest)) = .ok (f k e i, rest) :=
  decode_operands (Takes.e16.pair Takes.word) (fun bs => (row bs).trans (withE16Word_eq bs f)) (x := ((k, e), i))
    ⟨he, trivial⟩ fun _ _ => noSlot _

end Shapes

/-! ### The instruction families -/

section Families

variable (rest : List Byte)

theorem aluOpcode_noSlot (k lo j : BitVec 3) : unimplementedSlot (aluOpcode k lo) j = false := by
  cases k using octal_cases <;> cases lo using octal_cases <;> rfl

theorem decode_encodeAlu (k : BitVec 3) {f : AluForm} (h : f.wf = true) :
    decode (encodeAlu k f ++ rest) = .ok (aluInstr k f, rest) := by
  have row := decodeImplemented_aluOpcode k
  have noSlot := aluOpcode_noSlot k
  cases f with
  | ebGb e g =>
    exact decode_reg8 (noSlot 0) (fun g e => aluInstr k (.ebGb e g))
      (fun bs => (row 0 bs).trans (decodeAluRow_ebGb k bs)) g h
  | evGv e g =>
    exact decode_reg16 (noSlot 1) (fun g e => aluInstr k (.evGv e g))
      (fun bs => (row 1 bs).trans (decodeAluRow_evGv k bs)) g h
  | gbEb g e =>
    exact decode_reg8 (noSlot 2) (fun g e => aluInstr k (.gbEb g e))
      (fun bs => (row 2 bs).trans (decodeAluRow_gbEb k bs)) g h
  | gvEv g e =>
    exact decode_reg16 (noSlot 3) (fun g e => aluInstr k (.gvEv g e))
      (fun bs => (row 3 bs).trans (decodeAluRow_gvEv k bs)) g h
  | alIb i => exact (decode_of_noSlot (noSlot 4) _).trans ((row 4 _).trans (decodeAluRow_alIb k _))
  | axIv i => exact decode_word (noSlot 5) (fun bs => (row 5 bs).trans (decodeAluRow_axIv k bs)) i
  | ebIb e i => exact decode_e8Byte (f := fun k e i => aluInstr k (.ebIb e i)) (fun _ => rfl) (fun _ => rfl) k h i
  | evIv e i => exact decode_e16Word (f := fun k e i => aluInstr k (.evIv e i)) (fun _ => rfl) (fun _ => rfl) k h i
  | ebIbAlt e i => exact decode_e8Byte (f := fun k e i => aluInstr k (.ebIbAlt e i)) (fun _ => rfl) (fun _ => rfl) k h i
  | evIbSx e i => exact decode_e16Byte (f := fun k e i => aluInstr k (.evIbSx e i)) (fun _ => rfl) (fun _ => rfl) k h i

theorem decode_encodeShift {k : BitVec 3} (hk : k ≠ 6) {f : ShiftForm} (h : f.wf = true) :
    decode (encodeShift k f ++ rest) = .ok (shiftInstr k f, rest) := by
  have slot : (k == 6) = false := by simpa using hk
  cases f with
  | eb1 e => exact decode_e8 (op := 0xD0) (f := fun k e => shiftInstr k (.eb1 e)) (fun _ => rfl) slot h
  | ev1 e => exact decode_e16 (op := 0xD1) (f := fun k e => shiftInstr k (.ev1 e)) (fun _ => rfl) slot h
  | ebCl e => exact decode_e8 (op := 0xD2) (f := fun k e => shiftInstr k (.ebCl e)) (fun _ => rfl) slot h
  | evCl e => exact decode_e16 (op := 0xD3) (f := fun k e => shiftInstr k (.evCl e)) (fun _ => rfl) slot h

theorem decode_encodeUnary {k : BitVec 3} (h0 : k ≠ 0) (h1 : k ≠ 1) {f : UnForm} (h : f.wf = true) :
    decode (encodeUnary k f ++ rest) = .ok (unaryInstr k f, rest) := by
  have slot : (k == 1) = false := by simpa using h1
  cases f with
  | eb e =>
    exact decode_operands (op := 0xF6) (Takes.e8.grp3 Takes.byte) decodeGrp3a_eq (x := ((k, e), none)) ⟨h, h0⟩
      ((slotImplemented_e8 0xF6 k e rest).2 slot)
  | ev e =>
    exact decode_operands (op := 0xF7) (Takes.e16.grp3 Takes.word) decodeGrp3b_eq (x := ((k, e), none)) ⟨h, h0⟩
      ((slotImplemented_e16 0xF7 k e rest).2 slot)

theorem decode_encodeTest {f : TestForm} (h : f.wf = true) : decode (encodeTest f ++ rest) = .ok (.test f, rest) := by
  cases f with
  | gbEb g e => exact decode_reg8 (fun _ => rfl) (fun g e => .test (.gbEb g e)) (fun _ => rfl) g h
  | gvEv g e => exact decode_reg16 (fun _ => rfl) (fun g e => .test (.gvEv g e)) (fun _ => rfl) g h
  | alIb i => rfl
  | axIv i => exact decode_word (f := fun i => .test (.axIv i)) (fun _ => rfl) (fun _ => rfl) i
  | ebIb e i =>
    refine decode_operands (op := 0xF6) (Takes.e8.grp3 Takes.byte) decodeGrp3a_eq (x := ((0, e), some i))
      ⟨h, trivial, rfl⟩ ?_
    rw [grp3Bytes, List.append_assoc, slotImplemented_e8]
    rfl
  | evIv e i =>
    refine decode_operands (op := 0xF7) (Takes.e16.grp3 Takes.word) decodeGrp3b_eq (x := ((0, e), some i))
      ⟨h, trivial, rfl⟩ ?_
    rw [grp3Bytes, List.append_assoc, slotImplemented_e16]
    rfl

theorem decode_encodeMov {f : MovForm} (h : f.wf = true) : decode (encodeMov f ++ rest) = .ok (.mov f, rest) := by
  cases f with
  | ebGb e g => exact decode_reg8 (fun _ => rfl) (fun g e => .mov (.ebGb e g)) (fun _ => rfl) g h
  | evGv e g => exact decode_reg16 (fun _ => rfl) (fun g e => .mov (.evGv e g)) (fun _ => rfl) g h
  | gbEb g e => exact decode_reg8 (fun _ => rfl) (fun g e => .mov (.gbEb g e)) (fun _ => rfl) g h
  | gvEv g e => exact decode_reg16 (fun _ => rfl) (fun g e => .mov (.gvEv g e)) (fun _ => rfl) g h

theorem decode_grp5 {k : BitVec 3} (hk : k ≠ 7) {e : RM16} (h : e.wf = true) :
    decode (0xFF :: (encodeE16 k e ++ rest)) = .ok (grp5Instr k e, rest) := by
  have slot : (k == 7) = false := by simpa using hk
  exact decode_e16 (op := 0xFF) (f := grp5Instr) (fun _ => rfl) slot h

/-- INC and DEC of an `Eb` operand, GRP4. -/
theorem decode_grp4 {k : BitVec 3} (hk : k.toNat < 2) {e : RM8} (h : e.wf = true) :
    decode (0xFE :: (encodeE8 k e ++ rest)) = .ok (if k = 0 then .inc (.eb e) else .dec (.eb e), rest) := by
  have slot : decide (2 ≤ k.toNat) = false := by simpa using hk
  exact decode_e8 (op := 0xFE) (f := fun k e => if k = 0 then .inc (.eb e) else .dec (.eb e)) (fun _ => rfl) slot h

theorem decode_encode_inc {f : IncForm} (h : f.wf = true) : decode (encode (.inc f) ++ rest) = .ok (.inc f, rest) := by
  cases f with
  | r16 r => cases r <;> exact decode_of_noSlot (fun _ => rfl) rest
  | eb e => exact decode_grp4 rest (k := 0) (by decide) h
  | ev e => exact decode_grp5 rest (k := 0) (by decide) h

theorem decode_encode_dec {f : IncForm} (h : f.wf = true) : decode (encode (.dec f) ++ rest) = .ok (.dec f, rest) := by
  cases f with
  | r16 r => cases r <;> exact decode_of_noSlot (fun _ => rfl) rest
  | eb e => exact decode_grp4 rest (k := 1) (by decide) h
  | ev e => exact decode_grp5 rest (k := 1) (by decide) h

theorem decode_encode_movImm {f : MovImmForm} (h : f.wf = true) :
    decode (encode (.movImm f) ++ rest) = .ok (.movImm f, rest) := by
  cases f with
  | ebIb k e i => exact decode_e8Byte (f := fun k e i => .movImm (.ebIb k e i)) (fun _ => rfl) (fun _ => rfl) k h i
  | evIv k e i => exact decode_e16Word (f := fun k e i => .movImm (.evIv k e i)) (fun _ => rfl) (fun _ => rfl) k h i

theorem decode_encode_movRegImm (f : MovRegImmForm) :
    decode (encode (.movRegImm f) ++ rest) = .ok (.movRegImm f, rest) := by
  cases f with
  | r8 r i => cases r <;> rfl
  | r16 r i =>
    cases r <;> exact decode_word (f := fun i => .movRegImm (.r16 _ i)) (fun _ => rfl) (fun _ => rfl) i

theorem decode_encode_movMoffs (f : MoffsForm) : decode (encode (.movMoffs f) ++ rest) = .ok (.movMoffs f, rest) := by
  cases f with
  | alOb off => exact decode_word (f := fun off => .movMoffs (.alOb off)) (fun _ => rfl) (fun _ => rfl) off
  | axOv off => exact decode_word (f := fun off => .movMoffs (.axOv off)) (fun _ => rfl) (fun _ => rfl) off
  | obAl off => exact decode_word (f := fun off => .movMoffs (.obAl off)) (fun _ => rfl) (fun _ => rfl) off
  | ovAx off => exact decode_word (f := fun off => .movMoffs (.ovAx off)) (fun _ => rfl) (fun _ => rfl) off

theorem decode_encode_xchg {f : XchgForm} (h : f.wf = true) :
    decode (encode (.xchg f) ++ rest) = .ok (.xchg f, rest) := by
  cases f with
  | gbEb g e => exact decode_reg8 (fun _ => rfl) (fun g e => .xchg (.gbEb g e)) (fun _ => rfl) g h
  | gvEv g e => exact decode_reg16 (fun _ => rfl) (fun g e => .xchg (.gvEv g e)) (fun _ => rfl) g h

theorem decode_encode_jmpRel (f : JmpRelForm) : decode (encode (.jmpRel f) ++ rest) = .ok (.jmpRel f, rest) := by
  cases f with
  | short rel => rfl
  | near rel => exact decode_word (f := fun rel => .jmpRel (.near rel)) (fun _ => rfl) (fun _ => rfl) rel

/-- Opcode 90 is NOP, so AX is left out (45_prefix_flag_io_misc.md R321). -/
theorem decode_encode_xchgAx {r : Reg16} (h : r ≠ .ax) :
    decode (encode (.xchgAx r) ++ rest) = .ok (.xchgAx r, rest) := by
  cases r with
  | ax => exact absurd rfl h
  | cx | dx | bx | sp | bp | si | di => exact decode_of_noSlot (fun _ => rfl) rest

/-- Opcode 0F is unimplemented, so CS is left out (43_data_transfer.md R266). -/
theorem decode_encode_popSeg {sr : SReg} (h : sr ≠ .cs) :
    decode (encode (.popSeg sr) ++ rest) = .ok (.popSeg sr, rest) := by
  cases sr with
  | cs => exact absurd rfl h
  | es | ss | ds => exact decode_of_noSlot (fun _ => rfl) rest

theorem decode_unimplementedOpcode :
    ∀ op ∈ unimplementedOpcodes, decode (op :: rest) = .ok (.unimplOp op, rest) := by
  simp only [unimplementedOpcodes, List.forall_mem_cons, List.not_mem_nil, false_implies, implies_true, and_true]
  and_intros <;> exact decode_of_noSlot (fun _ => rfl) rest

end Families

end Sys2Proof
end

section
/-! The family 30_encoding.md: decoding inverts encoding, and what follows from the two round trips together
(30_encoding.md R90, R114 to R118). -/

namespace Sys2Proof

/-- Settles O1: by families of instructions. -/
theorem decodeInvertsEncode : Obligations.DecodeInvertsEncode := by
  intro i rest h
  cases i with
  | add f | or f | adc f | sbb f | and f | sub f | xor f | cmp f => exact decode_encodeAlu rest _ h
  | test f => exact decode_encodeTest rest h
  | inc f => exact decode_encode_inc rest h
  | dec f => exact decode_encode_dec rest h
  | neg f | not f | mul f | imul f | div f | idiv f => exact decode_encodeUnary rest (by decide) (by decide) h
  | rol f | ror f | rcl f | rcr f | shl f | shr f | sar f => exact decode_encodeShift rest (by decide) h
  | mov f => exact decode_encodeMov rest h
  | movImm f => exact decode_encode_movImm rest h
  | movRegImm f => exact decode_encode_movRegImm rest f
  | movFromSeg e sw => exact decode_e16 (f := fun k e => .movFromSeg e k) (fun _ => rfl) rfl h
  | movToSeg sw e => exact decode_e16 (f := .movToSeg) (fun _ => rfl) rfl h
  | popRm k e => exact decode_e16 (f := .popRm) (fun _ => rfl) rfl h
  | esc op k e => cases op using octal_cases <;> exact decode_e16 (f := .esc _) (fun _ => rfl) rfl h
  | movMoffs f => exact decode_encode_movMoffs rest f
  | xchg f => exact decode_encode_xchg rest h
  | xchgAx r => exact decode_encode_xchgAx rest (by rintro rfl; cases h)
  | lea g e => exact decode_reg16 (fun _ => rfl) .lea (fun _ => rfl) g h
  | lds g e => exact decode_reg16 (fun _ => rfl) .lds (fun _ => rfl) g h
  | les g e => exact decode_reg16 (fun _ => rfl) .les (fun _ => rfl) g h
  | pushReg r | popReg r => cases r <;> exact decode_of_noSlot (fun _ => rfl) rest
  | pushSeg sr => cases sr <;> exact decode_of_noSlot (fun _ => rfl) rest
  | popSeg sr => exact decode_encode_popSeg rest (by rintro rfl; cases h)
  | pushRm e | jmpRm e | jmpFarMem e | callRm e | callFarMem e => exact decode_grp5 rest (by decide) h
  | jmpRel f => exact decode_encode_jmpRel rest f
  | jmpFar off seg | callFar off seg => exact decode_far (fun _ => rfl) (fun _ => rfl) off seg
  | callRel w | retImm w | retfImm w => exact decode_word (fun _ => rfl) (fun _ => rfl) w
  | inImm w _ | inDx w | outImm w _ | outDx w => cases w <;> exact decode_of_noSlot (fun _ => rfl) _
  | unimplOp op => exact decode_unimplementedOpcode rest op (List.contains_iff_mem.1 h)
  | unimplGroup op m => exact decode_of_slotUnimplemented h rest
  | _ => exact decode_of_noSlot (fun _ => rfl) _

/-- Settles O5: each word is the encoding of its instruction. -/
theorem sampleWordsDecode : Obligations.SampleWordsDecode := by
  have reads (i : Instr) (h : i.wf = true) : decode (encode i ++ []) = .ok (i, []) := decodeInvertsEncode i [] h
  exact ⟨reads (.cmp (.axIv 0x1234)) rfl, reads (.mov (.gvEv .ax (.mem (.disp8 .bx 0x02)))) rfl,
    reads (.shr (.evCl (.reg .ax))) rfl, reads (.pushRm (.mem (.direct 0x0200))) rfl,
    reads (.jmpFar 0x0100 0x2000) rfl, reads (.and (.evIbSx (.reg .bx) 0xF0)) rfl⟩

/-! ### Unimplemented encodings (R118) -/

/-- By O2 the instruction read is kept with the bytes it was read from, and by O1 those bytes read it. -/
theorem decode_unimplemented_iff (op m : Byte) (rest : List Byte) :
    (∃ i r, decode (op :: m :: rest) = .ok (i, r) ∧ ((∃ o, i = .unimplOp o) ∨ ∃ o n, i = .unimplGroup o n)) ↔
      op ∈ unimplementedOpcodes ∨ unimplementedSlot op (regField m) = true := by
  constructor
  · rintro ⟨i, r, h, ⟨o, rfl⟩ | ⟨o, n, rfl⟩⟩
    · obtain ⟨legal, bytes⟩ := encodeInvertsDecode _ _ _ h
      cases bytes
      exact .inl (List.contains_iff_mem.1 legal)
    · obtain ⟨legal, bytes⟩ := encodeInvertsDecode _ _ _ h
      cases bytes
      exact .inr legal
  · rintro (h | h)
    · exact ⟨_, _, decodeInvertsEncode (.unimplOp op) (m :: rest) (List.contains_iff_mem.2 h), .inl ⟨op, rfl⟩⟩
    · exact ⟨_, _, decodeInvertsEncode (.unimplGroup op m) rest h, .inr ⟨op, m, rfl⟩⟩

theorem mem_unimplementedOpcodes_iff (op : Byte) : op ∈ unimplementedOpcodes ↔
    op = 0x0F ∨ (0x60 ≤ op.toNat ∧ op.toNat ≤ 0x6F) ∨ op = 0xC0 ∨ op = 0xC1 ∨ op = 0xC8 ∨ op = 0xC9 ∨ op = 0xD6 ∨
      op = 0xF1 := by
  simp [unimplementedOpcodes, BitVec.toNat_eq]
  omega

theorem toNat_regField (m : Byte) : (regField m).toNat = m.toNat / 8 % 8 := by
  simp [regField, Nat.shiftRight_eq_div_pow]

theorem unimplementedSlot_iff (op : Byte) (k : BitVec 3) : unimplementedSlot op k = true ↔
    (0xD0 ≤ op.toNat ∧ op.toNat ≤ 0xD3 ∧ k.toNat = 6) ∨ ((op = 0xF6 ∨ op = 0xF7) ∧ k.toNat = 1) ∨
      (op = 0xFE ∧ 2 ≤ k.toNat) ∨ (op = 0xFF ∧ k.toNat = 7) := by
  have grp2 : (op = 0xD0 ∨ op = 0xD1 ∨ op = 0xD2 ∨ op = 0xD3) ↔ 0xD0 ≤ op.toNat ∧ op.toNat ≤ 0xD3 := by bv_omega
  simp only [unimplementedSlot, grp2]
  split_ifs with h2 h3 h4 h5
  · rw [beq_iff_eq]
    bv_omega
  · rw [beq_iff_eq]
    bv_omega
  · rw [decide_eq_true_iff]
    bv_omega
  · rw [beq_iff_eq]
    bv_omega
  · rw [false_iff]
    bv_omega

/-- Settles O4: the list and the slots of the model are those of R118. -/
theorem unimplementedEncodingsAreThoseListed : Obligations.UnimplementedEncodingsAreThoseListed := by
  intro op m rest _
  rw [decode_unimplemented_iff, mem_unimplementedOpcodes_iff, unimplementedSlot_iff, toNat_regField]
  simp only [or_assoc]

end Sys2Proof
end

section
/-! The family 30_encoding.md, its faults: the encodings whose addressing the machine does not have (30_encoding.md
R123, 60_exceptions.md R353) and the port that refuses a read (R354, R402). -/

namespace Sys2Proof.Machine

/-! ### The addressing fault -/

theorem ofSw_eq_none_iff (sw : BitVec 3) : SReg.ofSw sw = none ↔ 4 ≤ sw.toNat := by
  simp [SReg.ofSw]

theorem exec_of_noAddressing {i : Instr} (h : i.noAddressing = true) (s : State) :
    exec i s = .fault .addressingNotImplemented := by
  cases i with
  | lea _ e | lds _ e | les _ e | jmpFarMem e | callFarMem e =>
    cases e with
    | reg => rfl
    | mem => cases h
  | movFromSeg _ sw | movToSeg sw =>
    have unselected : SReg.ofSw sw = none := (ofSw_eq_none_iff sw).2 (of_decide_eq_true h)
    simp only [exec, execMovFromSeg, execMovToSeg, unselected]
  | _ => cases h

theorem inPort_of_noAddressing {i : Instr} (h : i.noAddressing = true) (s : State) : i.inPort s = none := by
  cases i with
  | inImm | inDx => cases h
  | _ => rfl

/-! ### The device-port fault -/

theorem portMap_eq_control_iff (s : State) (port : Word) : portMap s.cfg port = some .control ↔ s.timerPort port 3 := by
  constructor
  · intro h
    unfold portMap at h
    split at h
    · cases h
    next base hbase =>
      split at h
      case h_4 three => exact ⟨base, hbase, three⟩
      all_goals cases h
  · exact portMap_of_timerPort

theorem portRead8_eq_error_iff (s : State) (port : Word) (f : Fault) :
    s.portRead8 port = .error f ↔ f = .devicePortError ∧ s.timerPort port 3 := by
  rw [← portMap_eq_control_iff, State.portRead8]
  cases portMap s.cfg port with
  | none => simp
  | some p => cases p <;> simp [eq_comm]

theorem portRead16_eq_error_iff (s : State) (port : Word) (f : Fault) :
    s.portRead16 port = .error f ↔ f = .devicePortError ∧ s.timerPort port 3 := by
  rw [← portMap_eq_control_iff, State.portRead16]
  cases portMap s.cfg port with
  | none => simp
  | some p => cases p <;> simp [eq_comm]

theorem input_eq_fault_iff (s : State) (w : Width) (port : Word) (len : Nat) (f : Fault) :
    s.input w port len = .fault f ↔ f = .devicePortError ∧ s.timerPort port 3 := by
  cases w with
  | byte =>
    rw [← portRead8_eq_error_iff, State.input]
    split <;> simp_all
  | word =>
    rw [← portRead16_eq_error_iff, State.input]
    split <;> simp_all

theorem exec_eq_fault_of_inPort {i : Instr} {s : State} {port : Word} (h : i.inPort s = some port) (f : Fault) :
    exec i s = .fault f ↔ f = .devicePortError ∧ s.timerPort port 3 := by
  cases i with
  | inImm | inDx =>
    cases h
    exact input_eq_fault_iff s _ _ _ f
  | _ => cases h

/-! ### No other fault -/

/-- Every other meaning answers a next state or a refusal, in every branch. -/
theorem exec_ne_fault {i : Instr} {s : State} (haddr : i.noAddressing = false) (hport : i.inPort s = none) (f : Fault) :
    exec i s ≠ .fault f := by
  cases i with
  | lea _ e | lds _ e | les _ e | jmpFarMem e | callFarMem e =>
    cases e with
    | reg => cases haddr
    | mem => nofun
  | movFromSeg _ sw | movToSeg sw =>
    have selected : SReg.ofSw sw ≠ none := fun h => of_decide_eq_false haddr ((ofSw_eq_none_iff sw).1 h)
    obtain ⟨r, hr⟩ := Option.ne_none_iff_exists'.1 selected
    simp [exec, execMovFromSeg, execMovToSeg, hr]
  | inImm | inDx => cases hport
  | div g | idiv g =>
    cases g <;> simp only [exec, execDiv, execIdiv] <;> split <;> nofun
  | aaa | aas | aam | into =>
    simp only [exec, execAaa, execAas, execAam, execInto]
    split <;> nofun
  | mov g | movImm g | movRegImm g | movMoffs g | xchg g | mul g | imul g | jmpRel g => cases g <;> nofun
  | _ => nofun

/-- Settles O14: an instruction without the addressing it asks for faults, an IN faults at the control port alone, and
no other instruction does. -/
theorem faultsAreExactlyThese : Obligations.FaultsAreExactlyThese := by
  intro i s
  cases haddr : i.noAddressing with
  | true => simp [exec_of_noAddressing haddr, inPort_of_noAddressing haddr]
  | false =>
    cases hport : i.inPort s with
    | some port => simp [exec_eq_fault_of_inPort hport]
    | none => simp [exec_ne_fault haddr hport]

end Sys2Proof.Machine
end

section
/-! The family 40_arithmetic.md: addition and subtraction in every operand form (40_arithmetic.md R140, R141, R144 to
R151; 41_logic_shift.md R184). -/

namespace Sys2Proof.Machine

/-- Settles O19: ADD is the addition without a carry in, ADC the one with CF, and an addition does the same in every
form. -/
theorem addAndAdcResult : Obligations.AddAndAdcResult := by
  intro f s hi d
  have sum (c : Bool) := applyAlu_spec (addWith c) s hi (fun w a b => AddFlagsOf w a b c.toNat)
    (fun w a b => (a + b + c.toNat) % 2 ^ w) (addWith_spec s c) f
  exact ⟨⟨_, rfl, sum false⟩, ⟨_, rfl, sum s.flags.cf⟩⟩

/-- Settles O20: SUB is the subtraction without a borrow, SBB the one with CF; CMP drops the difference of SUB. -/
theorem subSbbCmpResult : Obligations.SubSbbCmpResult := by
  intro f s hi d
  have difference (c : Bool) := applyAlu_spec (subWith c) s hi (fun w a b => SubFlagsOf w a b c.toNat)
    (fun w a b => subMod w a b c.toNat) (subWith_spec s c) f
  refine ⟨⟨_, rfl, difference false⟩, ⟨_, rfl, difference s.flags.cf⟩, ?cmp⟩
  obtain ⟨frame, ip, flags⟩ := compareAlu_spec (subWith false) s (fun w a b => SubFlagsOf w a b 0)
    (fun w hw a b => let ⟨only, _, flags⟩ := subWith_spec s false w hw a b; ⟨only, flags⟩) f
  exact ⟨_, rfl, flags, frame, ip⟩

theorem toNat_one_of_width {w : Nat} (hw : w = 8 ∨ w = 16) : (1 : BitVec w).toNat = 1 := by
  obtain rfl | rfl := hw <;> rfl

/-- Settles O21: INC and DEC are the addition and the subtraction of 1, NEG the subtraction from 0, NOT the complement
with the state as it was. -/
theorem oneOperandResult : Obligations.OneOperandResult := by
  intro f g s hi d o
  refine ⟨⟨_, rfl, ?inc⟩, ⟨_, rfl, ?dec⟩, ⟨_, rfl, ?neg⟩, ⟨_, rfl, ?not⟩⟩
  case inc =>
    refine applyIncDec_spec _ s hi allStatus (fun w a => AddFlagsOf w a 1 0) (fun w a => (a + 1) % 2 ^ w) ?_ f
    intro w hw a
    have sum := addWith_spec s false w hw a 1
    rwa [toNat_one_of_width hw] at sum
  case dec =>
    refine applyIncDec_spec _ s hi allStatus (fun w a => SubFlagsOf w a 1 0) (fun w a => subMod w a 1 0) ?_ f
    intro w hw a
    have difference := subWith_spec s false w hw a 1
    rwa [toNat_one_of_width hw] at difference
  case neg =>
    refine applyUnary_spec _ s hi allStatus (fun w b => SubFlagsOf w 0 b 0) (fun w b => subMod w 0 b 0) ?_ g
    intro w hw b
    have difference := subWith_spec s false w hw (0#w) b
    rwa [BitVec.toNat_zero] at difference
  case not =>
    exact (applyUnary_spec _ s hi [] (fun _ _ _ => True) (fun w b => 2 ^ w - 1 - b)
      (fun w _ b => ⟨.refl s [], BitVec.toNat_not, trivial⟩) g).1

end Sys2Proof.Machine
end

section
/-! The family 40_arithmetic.md: the rules its accumulator instructions share. `Changed` is where such an instruction
stands before IP moves on: some word registers and status flags written, nothing else. -/

namespace Sys2Proof.Machine

/-! ### Reads after IP has moved on -/

@[simp] theorem reg16_advance (s : State) (len : Nat) (r : Reg16) : (s.advance len).reg16 r = s.reg16 r :=
  State.reg16_setIp s _ r

@[simp] theorem reg8_advance (s : State) (len : Nat) (r : Reg8) : (s.advance len).reg8 r = s.reg8 r :=
  State.reg8_setIp s _ r

@[simp] theorem flags_advance (s : State) (len : Nat) : (s.advance len).flags = s.flags := rfl

/-! ### The halves of AX -/

@[simp] theorem al_setReg16_ax (s : State) (w : Word) : (s.setReg16 .ax w).reg8 .al = loByte w := rfl

@[simp] theorem ah_setReg16_ax (s : State) (w : Word) : (s.setReg16 .ax w).reg8 .ah = hiByte w := rfl

/-! ### Registers and flags written, IP where it was -/

/-- `u` differs from `s` at most in the word registers `rs`, the status flags `fl` and the count of draws. -/
structure Changed (s u : State) (rs : List Reg16) (fl : List StatusFlag) : Prop where
  frame : Only s u rs [] fl []
  ip    : u.ip = s.ip

namespace Changed

variable {s u v : State} {rs : List Reg16} {fl : List StatusFlag}

theorem refl (s : State) (rs : List Reg16) (fl : List StatusFlag) : Changed s s rs fl := ⟨.refl s _ _ _ _, rfl⟩

theorem setReg16 (h : Changed s u rs fl) {r : Reg16} (hr : r ∈ rs) (w : Word) : Changed s (u.setReg16 r w) rs fl where
  frame := h.frame.trans ((only_setReg16 u r w).sub (by simpa using hr) (by simp) (by simp) (by simp))
  ip := (State.setReg16_ip u r w).trans h.ip

theorem flags (h : Changed s u rs fl) (k : FlagsOnly u v fl) : Changed s v rs fl where
  frame := h.frame.trans (k.toOnly.sub (by simp) (by simp) (by simp) (by simp))
  ip := k.ip.trans h.ip

/-- The frame of the whole instruction. -/
theorem advance (h : Changed s u rs fl) (len : Nat) :
    Only s (u.advance len) rs [] fl [] ∧ (u.advance len).ip = s.ip + BitVec.ofNat 16 len :=
  ⟨h.frame.advance len, advance_ip h.ip len⟩

end Changed

/-! ### Flags written, some of them unspecified (40_arithmetic.md R142) -/

section FreedFlags

variable (u : State) (f : Flags) (xs : List StatusFlag)

theorem flagsOnly_freed (control : f.tf = u.flags.tf ∧ f.ifl = u.flags.ifl ∧ f.df = u.flags.df) :
    FlagsOnly u ((u.setFlags f).freeFlags xs) allStatus :=
  (FlagsOnly.setFlags u f allStatus (fun x hx => absurd (allStatus_mem x) hx) control).trans
    ((FlagsOnly.freeFlags (u.setFlags f) xs).sub fun x _ => allStatus_mem x)

theorem get_freed {x : StatusFlag} (hx : x ∉ xs) : ((u.setFlags f).freeFlags xs).flags.get x = f.get x :=
  (FlagsOnly.freeFlags (u.setFlags f) xs).status x hx

theorem szpOf_freed {w r : Nat} (h : SzpOf w r f) (sf : .sf ∉ xs) (zf : .zf ∉ xs) (pf : .pf ∉ xs) :
    SzpOf w r ((u.setFlags f).freeFlags xs).flags :=
  h.congr (get_freed u f xs sf) (get_freed u f xs zf) (get_freed u f xs pf)

end FreedFlags

/-! ### Numbers -/

theorem signedOf_dest8 (s : State) (e : RM8) : signedOf 8 ((s.dest8 e).read s) = (s.readE8 e).toInt := by
  rw [read_dest8, signedOf_toNat]

theorem signedOf_dest16 (s : State) (e : RM16) : signedOf 16 ((s.dest16 e).read s) = (s.readE16 e).toInt := by
  rw [read_dest16, signedOf_toNat]

end Sys2Proof.Machine
end

section
/-! The family 40_arithmetic.md: multiplication (40_arithmetic.md R152, R153). -/

namespace Sys2Proof.Machine

/-! ### Products in numbers -/

section Numbers

variable {w n : Nat} (hn : n = w * 2) (a b : BitVec w)

include hn in
theorem toNat_ofNat_mul : (BitVec.ofNat n (a.toNat * b.toNat)).toNat = a.toNat * b.toNat := by
  refine Nat.mod_eq_of_lt ?_
  rw [hn, mul_two, pow_add]
  exact Nat.mul_lt_mul'' a.isLt b.isLt

include hn in
/-- A product is at most `2^(2w-2)` in absolute value. -/
theorem toInt_ofInt_mul (hw : 0 < w) : (BitVec.ofInt n (a.toInt * b.toInt)).toInt = a.toInt * b.toInt := by
  have bound : (2 : Int) ^ (w * 2 - 2) < 2 ^ (n - 1) := pow_lt_pow_right₀ (by decide) (by omega)
  have lower := BitVec.le_toInt_mul_toInt (x := a) (y := b)
  have upper := BitVec.toInt_mul_toInt_le (x := a) (y := b)
  exact BitVec.toInt_ofInt_eq_self (by omega) (by omega) (by omega)

end Numbers

theorem hiByte_ne_zero (w : Word) : (hiByte w != 0) = decide (256 ≤ w.toNat) := by
  have h := toNat_hiByte w
  rw [Bool.eq_iff_iff, bne_iff_ne, decide_eq_true_iff, ne_eq, ← BitVec.toNat_inj, h]
  simp

/-- A number equals the sign extension of its low `k` bits when it is in their signed range. -/
theorem ne_signExtend_low {n k : Nat} (hk : 0 < k) (hkn : k ≤ n) (p : BitVec n) :
    (p != (p.extractLsb' 0 k).signExtend n) = !fitsSigned k p.toInt := by
  have low : ((p.extractLsb' 0 k).signExtend n).toInt = p.toInt.bmod (2 ^ k) := by
    rw [BitVec.toInt_signExtend_of_le hkn, BitVec.toInt_eq_toNat_bmod p, Int.bmod_bmod_of_dvd (pow_dvd_pow 2 hkn)]
    simp
  have fits : p = (p.extractLsb' 0 k).signExtend n ↔ fitsSigned k p.toInt = true := by
    have half : (2 : Int) ^ k = 2 * 2 ^ (k - 1) := (mul_pow_sub_one hk.ne' 2).symm
    rw [← BitVec.toInt_inj, low, fitsSigned, Bool.and_eq_true, decide_eq_true_iff, decide_eq_true_iff, eq_comm,
      Int.bmod_eq_iff (Nat.two_pow_pos k)]
    push_cast
    rw [half]
    simp only [ne_eq, OfNat.ofNat_ne_zero, not_false_eq_true, mul_div_cancel_left₀, sub_self, dvd_zero, and_true]
    omega
  rw [bne, Bool.not_inj_iff, Bool.eq_iff_iff, beq_iff_eq, fits]

/-! ### DX:AX -/

theorem dx_eq_extract (s : State) : s.reg16 .dx = s.dxAx.extractLsb' 16 16 := BitVec.extractLsb'_append_eq_left.symm

theorem dxAx_setDxAx (s : State) (p : BitVec 32) : (s.setDxAx p).dxAx = p :=
  BitVec.extractLsb'_append_extractLsb' (w := 16) (len := 16)

/-! ### The end of MUL and IMUL -/

theorem multiplyFlags_spec (u : State) (big : Bool) : FlagsOnly u (u.multiplyFlags big) allStatus ∧
    (u.multiplyFlags big).flags.cf = big ∧ (u.multiplyFlags big).flags.ofl = big :=
  ⟨flagsOnly_freed u _ _ ⟨rfl, rfl, rfl⟩, get_freed u _ _ (x := .cf) (by decide),
    get_freed u _ _ (x := .ofl) (by decide)⟩

/-- After the registers hold the product, the flags and IP: everything else is as it was. -/
theorem multiplied {s u : State} {rs : List Reg16} (h : Changed s u rs allStatus) {o : Outcome State} {big : Bool}
    {len : Nat} (run : o = .next ((u.multiplyFlags big).advance len)) :
    ∃ t, o = .next t ∧ (∀ r, t.reg16 r = u.reg16 r) ∧ t.flags.cf = big ∧ t.flags.ofl = t.flags.cf ∧
      Only s t rs [] allStatus [] ∧ t.ip = s.ip + BitVec.ofNat 16 len := by
  obtain ⟨only, cf, ofl⟩ := multiplyFlags_spec u big
  refine ⟨_, run, fun r => ?_, cf, ofl.trans cf.symm, (h.flags only).advance len⟩
  rw [reg16_advance, only.reg16]

theorem multiplied_ax {s : State} {o : Outcome State} {p : Word} {big : Bool} {len : Nat}
    (run : o = .next (((s.setReg16 .ax p).multiplyFlags big).advance len)) :
    ∃ t, o = .next t ∧ t.reg16 .ax = p ∧ t.flags.cf = big ∧ t.flags.ofl = t.flags.cf ∧
      Only s t [.ax] [] allStatus [] ∧ t.ip = s.ip + BitVec.ofNat 16 len := by
  have written : Changed s (s.setReg16 .ax p) [.ax] allStatus := (Changed.refl s _ _).setReg16 (by simp) p
  obtain ⟨t, next, regs, rest⟩ := multiplied written run
  exact ⟨t, next, (regs .ax).trans (by simp), rest⟩

theorem multiplied_dxAx {s : State} {o : Outcome State} {p : BitVec 32} {big : Bool} {len : Nat}
    (run : o = .next (((s.setDxAx p).multiplyFlags big).advance len)) :
    ∃ t, o = .next t ∧ t.dxAx = p ∧ t.flags.cf = big ∧ t.flags.ofl = t.flags.cf ∧
      Only s t [.ax, .dx] [] allStatus [] ∧ t.ip = s.ip + BitVec.ofNat 16 len := by
  have written : Changed s (s.setDxAx p) [.ax, .dx] allStatus :=
    ((Changed.refl s _ _).setReg16 (by simp) _).setReg16 (by simp) _
  obtain ⟨t, next, regs, rest⟩ := multiplied written run
  refine ⟨t, next, ?_, rest⟩
  rw [State.dxAx, regs, regs]
  exact dxAx_setDxAx s p

/-- Settles O22: the registers are twice as wide as the operands, so the product is exact; MUL's flag is that its upper
half is not zero, IMUL's that the product is not the sign extension of its lower half. -/
theorem productResult : Obligations.ProductResult := by
  intro e8 e16 s
  refine ⟨?mulByte, ?mulWord, ?imulByte, ?imulWord⟩
  case mulByte =>
    obtain ⟨t, run, ax, cf, rest⟩ := multiplied_ax (o := exec (.mul (.eb e8)) s) rfl
    refine ⟨t, run, ?_, ?_, rest⟩
    · rw [ax, read_dest8]
      exact toNat_ofNat_mul rfl _ _
    · rw [cf, ← ax, hiByte_ne_zero]
  case mulWord =>
    obtain ⟨t, run, dxAx, cf, rest⟩ := multiplied_dxAx (o := exec (.mul (.ev e16)) s) rfl
    refine ⟨t, run, ?_, ?_, rest⟩
    · rw [← toNat_dxAx, dxAx, read_dest16]
      exact toNat_ofNat_mul rfl _ _
    · rw [cf, ← dxAx, ← dx_eq_extract, bne, beq_eq_decide, ← decide_not]
  case imulByte =>
    obtain ⟨t, run, ax, cf, rest⟩ := multiplied_ax (o := exec (.imul (.eb e8)) s) rfl
    refine ⟨t, run, ?_, ?_, rest⟩
    · rw [signedOf_toNat, signedOf_toNat, signedOf_dest8, ax]
      exact toInt_ofInt_mul rfl _ _ (by decide)
    · rw [cf, ← ax, signedOf_toNat]
      exact ne_signExtend_low (by decide) (by decide) _
  case imulWord =>
    obtain ⟨t, run, dxAx, cf, rest⟩ := multiplied_dxAx (o := exec (.imul (.ev e16)) s) rfl
    refine ⟨t, run, ?_, ?_, rest⟩
    · rw [← toNat_dxAx, signedOf_toNat, signedOf_toNat, signedOf_dest16, dxAx]
      exact toInt_ofInt_mul rfl _ _ (by decide)
    · rw [cf, ← dxAx, ← toNat_dxAx, signedOf_toNat]
      exact ne_signExtend_low (by decide) (by decide) _

end Sys2Proof.Machine
end

section
/-! The family 40_arithmetic.md: division (40_arithmetic.md R154, R155). -/

namespace Sys2Proof.Machine

/-! ### Quotients in numbers -/

/-- A remainder is smaller in absolute value than the divisor, so it fits the divisor's width. -/
theorem toInt_ofInt_tmod {w : Nat} (hw : 0 < w) (n : Int) {d : BitVec w} (hd : d.toInt ≠ 0) :
    (BitVec.ofInt w (n.tmod d.toInt)).toInt = n - n.tdiv d.toInt * d.toInt := by
  have small : (n.tmod d.toInt).natAbs < d.toInt.natAbs := by
    rw [Int.natAbs_tmod]
    exact Nat.mod_lt _ (Int.natAbs_pos.2 hd)
  have lower := d.le_toInt
  have upper := d.toInt_lt
  rw [BitVec.toInt_ofInt_eq_self hw (by omega) (by omega), Int.tmod_def, mul_comm]

theorem toNat_ofNat_mod {w : Nat} (n : Nat) {d : BitVec w} (hd : d.toNat ≠ 0) :
    (BitVec.ofNat w (n % d.toNat)).toNat = n % d.toNat :=
  Nat.mod_eq_of_lt ((Nat.mod_lt n (Nat.pos_of_ne_zero hd)).trans d.isLt)

/-! ### The end of DIV and IDIV without a divide error -/

theorem divided_ax {s : State} {o : Outcome State} {q r : Byte} {len : Nat}
    (run : o = .next ((s.divideFlags.setReg16 .ax (wordOfBytes q r)).advance len)) :
    ∃ t, o = .next t ∧ t.reg8 .al = q ∧ t.reg8 .ah = r ∧
      Only s t [.ax] [] allStatus [] ∧ t.ip = s.ip + BitVec.ofNat 16 len :=
  ⟨_, run, by simp, by simp,
    (((Changed.refl s _ _).flags (divideFlags_spec s)).setReg16 (by simp) _).advance len⟩

theorem divided_dxAx {s : State} {o : Outcome State} {q r : Word} {len : Nat}
    (run : o = .next (((s.divideFlags.setReg16 .ax q).setReg16 .dx r).advance len)) :
    ∃ t, o = .next t ∧ t.reg16 .ax = q ∧ t.reg16 .dx = r ∧
      Only s t [.ax, .dx] [] allStatus [] ∧ t.ip = s.ip + BitVec.ofNat 16 len :=
  ⟨_, run, by simp, by simp,
    ((((Changed.refl s _ _).flags (divideFlags_spec s)).setReg16 (by simp) _).setReg16 (by simp) _).advance len⟩

/-- Settles O23: the conditions exclude the trap, and under them quotient and remainder fit their registers. -/
theorem quotientResult : Obligations.QuotientResult := by
  intro e8 e16 s
  rw [signedOf_dest8, signedOf_dest16, ← toNat_dxAx, read_dest8, read_dest16, signedOf_toNat, signedOf_toNat]
  dsimp only
  refine ⟨?divByte, ?divWord, ?idivByte, ?idivWord⟩
  case divByte =>
    intro nonzero fits
    obtain ⟨t, run, al, ah, rest⟩ := divided_ax (o := exec (.div (.eb e8)) s) (if_neg (by omega))
    refine ⟨t, run, ?_, ?_, rest⟩
    · rw [al]
      exact Nat.mod_eq_of_lt fits
    · rw [ah]
      exact toNat_ofNat_mod _ nonzero
  case divWord =>
    intro nonzero fits
    obtain ⟨t, run, ax, dx, rest⟩ := divided_dxAx (o := exec (.div (.ev e16)) s) (if_neg (by omega))
    refine ⟨t, run, ?_, ?_, rest⟩
    · rw [ax]
      exact Nat.mod_eq_of_lt fits
    · rw [dx]
      exact toNat_ofNat_mod _ nonzero
  case idivByte =>
    intro nonzero lower upper
    obtain ⟨t, run, al, ah, rest⟩ := divided_ax (o := exec (.idiv (.eb e8)) s) (if_neg (by omega))
    refine ⟨t, run, ?_, ?_, rest⟩
    · rw [al, signedOf_toNat]
      exact BitVec.toInt_ofInt_eq_self (by decide) (by omega) (by omega)
    · rw [ah, signedOf_toNat]
      exact toInt_ofInt_tmod (by decide) _ nonzero
  case idivWord =>
    intro nonzero lower upper
    obtain ⟨t, run, ax, dx, rest⟩ := divided_dxAx (o := exec (.idiv (.ev e16)) s) (if_neg (by omega))
    refine ⟨t, run, ?_, ?_, rest⟩
    · rw [ax, signedOf_toNat]
      exact BitVec.toInt_ofInt_eq_self (by decide) (by omega) (by omega)
    · rw [dx, signedOf_toNat]
      exact toInt_ofInt_tmod (by decide) _ nonzero

end Sys2Proof.Machine
end

section
/-! The family 40_arithmetic.md: decimal and ASCII adjust (40_arithmetic.md R156 to R159). -/

namespace Sys2Proof.Machine

/-! ### Digits and corrections in numbers -/

theorem toNat_lowDigit (b : Byte) : (b &&& 0x0F).toNat = b.toNat % 16 := by
  rw [BitVec.toNat_and]
  exact Nat.and_two_pow_sub_one_eq_mod _ 4

theorem lowAdjust_eq (s : State) : s.lowAdjust = (decide (9 < (s.reg8 .al).toNat % 16) || s.flags.af) := by
  rw [State.lowAdjust, toNat_lowDigit]

section Corrections

variable (a : Byte) (n m : Nat)

theorem toNat_add_ofNat : (a + BitVec.ofNat 8 n).toNat = (a.toNat + n) % 256 := by
  rw [BitVec.toNat_add, BitVec.toNat_ofNat, Nat.add_mod_mod]

theorem toNat_sub_ofNat : (a - BitVec.ofNat 8 n).toNat = subMod 8 a.toNat n 0 := by
  rw [BitVec.toNat_sub, BitVec.toNat_ofNat, subMod]
  omega

theorem toNat_sub_sub_ofNat : (a - BitVec.ofNat 8 n - BitVec.ofNat 8 m).toNat = subMod 8 a.toNat n m := by
  rw [toNat_sub_ofNat, toNat_sub_ofNat, subMod, subMod, subMod]
  omega

theorem subMod_low_digit : subMod 8 n m 0 % 16 = subMod 4 n m 0 := by
  rw [subMod, subMod]
  omega

end Corrections

/-! ### DAA and DAS -/

theorem exec_daa (s : State) : exec .daa s = .next ((s.decimalResult
    (s.reg8 .al + BitVec.ofNat 8 (s.lowAdjust.toNat * 6) + BitVec.ofNat 8 (s.highAdjust.toNat * 0x60))).advance 1) := by
  rw [exec, execDaa]
  cases s.lowAdjust <;> cases s.highAdjust <;> simp

theorem exec_das (s : State) : exec .das s = .next ((s.decimalResult
    (s.reg8 .al - BitVec.ofNat 8 (s.lowAdjust.toNat * 6) - BitVec.ofNat 8 (s.highAdjust.toNat * 0x60))).advance 1) := by
  rw [exec, execDas]
  cases s.lowAdjust <;> cases s.highAdjust <;> simp

theorem decimal_adjusted {s : State} {o : Outcome State} {v : Byte} (run : o = .next ((s.decimalResult v).advance 1)) :
    ∃ t, o = .next t ∧ Wrote s t (.reg8 .al) v.toNat allStatus 1 ∧
      t.flags.af = s.lowAdjust ∧ t.flags.cf = s.highAdjust ∧ SzpOf 8 (t.reg8 .al).toNat t.flags := by
  have only : FlagsOnly (s.setReg8 .al v) (s.decimalResult v) allStatus := flagsOnly_freed _ _ _ ⟨rfl, rfl, rfl⟩
  have wrote := ((FlagsOnly.refl s []).wrote_reg8 .al v 1).then_mid only (by simp)
  refine ⟨_, run, wrote, get_freed _ _ _ (x := .af) (by decide), get_freed _ _ _ (x := .cf) (by decide), ?_⟩
  rw [reg8_advance, only.reg8, State.reg8_setReg8, if_pos rfl]
  exact szpOf_freed _ _ _ (szpFlags_spec v _) (by decide) (by decide) (by decide)

/-! ### AAA and AAS -/

theorem exec_aaa (s : State) : exec .aaa s = .next ((s.asciiResult
    (s.reg8 .al + BitVec.ofNat 8 (s.lowAdjust.toNat * 6)) (s.reg8 .ah + BitVec.ofNat 8 s.lowAdjust.toNat)).advance 1) := by
  rw [exec, execAaa]
  cases s.lowAdjust <;> simp

theorem exec_aas (s : State) : exec .aas s = .next ((s.asciiResult
    (s.reg8 .al - BitVec.ofNat 8 (s.lowAdjust.toNat * 6)) (s.reg8 .ah - BitVec.ofNat 8 s.lowAdjust.toNat)).advance 1) := by
  rw [exec, execAas]
  cases s.lowAdjust <;> simp

theorem ascii_adjusted {s : State} {o : Outcome State} {v u : Byte} (run : o = .next ((s.asciiResult v u).advance 1)) :
    ∃ t, o = .next t ∧ (t.reg8 .al).toNat = v.toNat % 16 ∧ t.reg8 .ah = u ∧
      t.flags.af = s.lowAdjust ∧ t.flags.cf = s.lowAdjust ∧ Only s t [.ax] [] allStatus [] ∧ t.ip = s.ip + 1 := by
  have only : FlagsOnly (s.setReg16 .ax (wordOfBytes (v &&& 0x0F) u)) (s.asciiResult v u) allStatus :=
    flagsOnly_freed _ _ _ ⟨rfl, rfl, rfl⟩
  refine ⟨_, run, ?al, ?ah, get_freed _ _ _ (x := .af) (by decide), get_freed _ _ _ (x := .cf) (by decide),
    (((Changed.refl s _ _).setReg16 (by simp) _).flags only).advance 1⟩
  case al => rw [reg8_advance, only.reg8, al_setReg16_ax, loByte_wordOfBytes, toNat_lowDigit]
  case ah => rw [reg8_advance, only.reg8, ah_setReg16_ax, hiByte_wordOfBytes]

/-- Settles O25: the corrections are the conditions times their constants, added to or taken from AL and AH as separate
bytes. -/
theorem decimalAndAsciiAdjust : Obligations.DecimalAndAsciiAdjust := by
  intro s al ah lo hi
  have low : s.lowAdjust = lo := lowAdjust_eq s
  have high : s.highAdjust = hi := rfl
  refine ⟨?daa, ?das, ?aaa, ?aas⟩
  case daa =>
    obtain ⟨t, run, wrote, af, cf, szp⟩ := decimal_adjusted (exec_daa s)
    rw [toNat_add_ofNat, toNat_add_ofNat, Nat.mod_add_mod, low, high] at wrote
    exact ⟨t, run, wrote, af.trans low, cf.trans high, szp⟩
  case das =>
    obtain ⟨t, run, wrote, af, cf, szp⟩ := decimal_adjusted (exec_das s)
    rw [toNat_sub_sub_ofNat, low, high] at wrote
    exact ⟨t, run, wrote, af.trans low, cf.trans high, szp⟩
  case aaa =>
    obtain ⟨t, run, tal, tah, af, cf, rest⟩ := ascii_adjusted (exec_aaa s)
    rw [toNat_add_ofNat, Nat.mod_mod_of_dvd _ (by decide), low] at tal
    refine ⟨t, run, tal, ?_, af.trans low, cf.trans low, rest⟩
    rw [tah, toNat_add_ofNat, low]
  case aas =>
    obtain ⟨t, run, tal, tah, af, cf, rest⟩ := ascii_adjusted (exec_aas s)
    rw [toNat_sub_ofNat, subMod_low_digit, low] at tal
    refine ⟨t, run, tal, ?_, af.trans low, cf.trans low, rest⟩
    rw [tah, toNat_sub_ofNat, low]

end Sys2Proof.Machine
end

section
/-! The family 40_arithmetic.md: digits and sign extension (40_arithmetic.md R160 to R163). -/

namespace Sys2Proof.Machine

/-! ### AAM and AAD -/

theorem digits_written {s : State} {o : Outcome State} {v u : Byte}
    (run : o = .next ((((s.setReg16 .ax (wordOfBytes v u)).setFlags (szpFlags v s.flags)).freeFlags
      [.ofl, .af, .cf]).advance 2)) :
    ∃ t, o = .next t ∧ t.reg8 .al = v ∧ t.reg8 .ah = u ∧ SzpOf 8 v.toNat t.flags ∧
      Only s t [.ax] [] allStatus [] ∧ t.ip = s.ip + 2 := by
  have only := flagsOnly_freed (s.setReg16 .ax (wordOfBytes v u)) (szpFlags v s.flags) [.ofl, .af, .cf] ⟨rfl, rfl, rfl⟩
  refine ⟨_, run, ?al, ?ah, szpOf_freed _ _ _ (szpFlags_spec v _) (by decide) (by decide) (by decide),
    (((Changed.refl s _ _).setReg16 (by simp) _).flags only).advance 2⟩
  case al => rw [reg8_advance, only.reg8, al_setReg16_ax, loByte_wordOfBytes]
  case ah => rw [reg8_advance, only.reg8, ah_setReg16_ax, hiByte_wordOfBytes]

/-! ### CWD -/

theorem signedOf_signWord (w : Word) :
    signedOf 32 ((if w.msb then 0xFFFF else 0 : Word).toNat * 65536 + w.toNat) = signedOf 16 w.toNat := by
  have bound := w.isLt
  have top : w.msb = true ↔ 32768 ≤ w.toNat := by rw [BitVec.msb_eq_decide, decide_eq_true_iff]
  rw [signedOf, signedOf]
  by_cases negative : w.msb = true
  · have := top.1 negative
    rw [if_pos negative, if_neg (by bv_omega), if_neg (by bv_omega)]
    bv_omega
  · have := mt top.2 negative
    rw [if_neg negative, if_pos (by bv_omega), if_pos (by bv_omega)]
    bv_omega

/-- Settles O26: AAM leaves a quotient and a remainder that each fit a byte, AAD a sum modulo 256, both in the halves of
AX; CBW and CWD keep the signed value at twice the width. -/
theorem digitAndSignConversion : Obligations.DigitAndSignConversion := by
  intro base s al ah
  refine ⟨?aam, ?aad, ?cbw, ?cwd⟩
  case aam =>
    intro nonzero
    have pos : base.toNat ≠ 0 := fun h => nonzero (BitVec.eq_of_toNat_eq h)
    obtain ⟨t, run, tal, tah, szp, rest⟩ := digits_written (o := exec (.aam base) s) (if_neg nonzero)
    rw [← tal] at szp
    refine ⟨t, run, ?_, ?_, szp, rest⟩
    · rw [tah]
      exact Nat.mod_eq_of_lt ((Nat.div_le_self _ _).trans_lt (s.reg8 .al).isLt)
    · rw [tal]
      exact toNat_ofNat_mod _ pos
  case aad =>
    obtain ⟨t, run, tal, tah, szp, rest⟩ := digits_written (o := exec (.aad base) s) rfl
    rw [← tal] at szp
    refine ⟨t, run, ?_, ?_, szp, rest⟩
    · rw [tal, BitVec.toNat_add, BitVec.toNat_mul, Nat.add_mod_mod]
    · exact congrArg BitVec.toNat tah
  case cbw =>
    refine ⟨_, rfl, ?_, ((Changed.refl s _ _).setReg16 (by simp) _).advance 1⟩
    rw [signedOf_toNat, signedOf_toNat, reg16_advance, State.reg16_setReg16, if_pos rfl]
    exact BitVec.toInt_signExtend_of_le (by decide)
  case cwd =>
    exact ⟨_, rfl, signedOf_signWord (s.reg16 .ax), ((Changed.refl s _ _).setReg16 (by simp) _).advance 1⟩

end Sys2Proof.Machine
end

section
/-! The family 41_logic_shift.md: the logic instructions (41_logic_shift.md R180 to R183, R185). -/

namespace Sys2Proof.Machine

/-! ### AND, OR and XOR -/

/-- `r` at every width is the bitwise operation `R` of the operands, with the logic flags of the result. -/
theorem applyLogic_spec (r : (n : Nat) → BitVec n → BitVec n → BitVec n) (R : Nat → Nat → Nat)
    (toNat_r : ∀ n (a b : BitVec n), (r n a b).toNat = R a.toNat b.toNat) (s : State) (hi : s.Inv) (f : AluForm) :
    let d := f.dest s
    let v := R (d.read s) (f.src s)
    let t := (applyAlu (fun n a b s => s.logicResult (r n a b)) f s).advance f.len
    Wrote s t d v allStatus f.len ∧ t.flags.cf = false ∧ t.flags.ofl = false ∧ SzpOf d.width v t.flags := by
  refine applyAlu_spec _ s hi (fun w a b fl => fl.cf = false ∧ fl.ofl = false ∧ SzpOf w (R a b) fl) (fun _ => R) ?_ f
  intro n _ a b
  obtain ⟨only, flags⟩ := logicResult_spec s (r n a b)
  rw [toNat_r] at flags
  exact ⟨only, toNat_r n a b, flags⟩

/-! ### TEST -/

/-- The two-operand form with the operands and the length of a form of TEST. -/
def testAlu : TestForm → AluForm
  | .gbEb g e => .gbEb g e
  | .gvEv g e => .gvEv g e
  | .alIb i => .alIb i
  | .axIv i => .axIv i
  | .ebIb e i => .ebIb e i
  | .evIv e i => .evIv e i

section TestAsAlu

variable (g : TestForm) (s : State)

theorem exec_test : exec (.test g) s = .next ((compareAlu andOp (testAlu g) s).advance (testAlu g).len) := by
  cases g <;> rfl

theorem testLeft_eq : g.left s = (testAlu g).dest s := by cases g <;> rfl

theorem testRight_eq : g.right s = (testAlu g).src s := by cases g <;> rfl

theorem testLen_eq : g.len = (testAlu g).len := by cases g <;> rfl

end TestAsAlu

/-- Settles O27: the three operations are bitwise on the values too, and TEST is the AND of its operands with the result
dropped. -/
theorem logicResult : Obligations.LogicResult := by
  intro f g s hi d a b
  refine ⟨⟨_, rfl, applyLogic_spec _ _ (fun _ => BitVec.toNat_and) s hi f⟩,
    ⟨_, rfl, applyLogic_spec _ _ (fun _ => BitVec.toNat_or) s hi f⟩,
    ⟨_, rfl, applyLogic_spec _ _ (fun _ => BitVec.toNat_xor) s hi f⟩, ?test⟩
  obtain ⟨frame, ip, cf, ofl, szp⟩ := compareAlu_spec andOp s
    (fun w a b fl => fl.cf = false ∧ fl.ofl = false ∧ SzpOf w (a &&& b) fl)
    (fun n _ a b => BitVec.toNat_and a b ▸ logicResult_spec s (a &&& b)) (testAlu g)
  rw [testLeft_eq, testRight_eq, testLen_eq]
  exact ⟨_, exec_test g s, cf, ofl, szp, frame, ip⟩

end Sys2Proof.Machine
end

section
/-! The family 41_logic_shift.md: what the seven shifts and rotates share (41_logic_shift.md R186). -/

namespace Sys2Proof.Machine

/-! ### A count of 0 -/

theorem applyShift_of_count_zero (op : ShiftOp) {f : ShiftForm} {s : State} (h : f.count s = 0) :
    applyShift op f s = s := by
  cases f with
  | eb1 | ev1 => cases h
  | ebCl | evCl => exact if_pos h

/-- Settles O31: each of the seven operations leaves the state as it was and moves IP on. -/
theorem zeroCountChangesNothing : Obligations.ZeroCountChangesNothing := by
  intro f s zero
  have kept (op : ShiftOp) {i : Instr} (run : exec i s = .next ((applyShift op f s).advance f.len)) :
      ∃ t, exec i s = .next t ∧ Only s t [] [] [] [] ∧ t.ip = s.ip + BitVec.ofNat 16 f.len := by
    rw [applyShift_of_count_zero op zero] at run
    exact ⟨_, run, only_advance s _, rfl⟩
  simp only [List.forall_mem_cons, List.not_mem_nil, false_implies, implies_true, and_true]
  exact ⟨kept rolOp rfl, kept rorOp rfl, kept rclOp rfl, kept rcrOp rfl, kept shlOp rfl, kept shrOp rfl, kept sarOp rfl⟩

/-! ### A count of 1 or more -/

theorem two_le_of_width {n : Nat} (hn : n = 8 ∨ n = 16) : 2 ≤ n := by omega

/-- `cnt` steps of `op` from a value `v` and the carry `c` leave the value `R n v`, here `r`, and the carry `C n v r`;
`O n v r cf` is the overflow of one step with `cf` the new carry. -/
structure ShiftOp.ClosedForm (op : ShiftOp) (cnt : Nat) (c : Bool) (R : Nat → Nat → Nat) (C : Nat → Nat → Nat → Bool)
    (O : Nat → Nat → Nat → Bool → Bool) : Prop where
  value    : ∀ {n}, 2 ≤ n → ∀ v : BitVec n, (repeatStep op.step cnt (v, c)).1.toNat = R n v.toNat
  carry    : ∀ {n}, 2 ≤ n → ∀ v : BitVec n,
    (repeatStep op.step cnt (v, c)).2 = C n v.toNat (repeatStep op.step cnt (v, c)).1.toNat
  overflow : ∀ {n}, 2 ≤ n → ∀ (v r : BitVec n) (cf : Bool), op.overflow n v r cf = O n v.toNat r.toNat cf

/-- What a closed form of the steps says of the whole instruction. -/
theorem ShiftOp.ClosedForm.applied {op : ShiftOp} {f : ShiftForm} {s : State} {R C O}
    (h : op.ClosedForm (f.count s) s.flags.cf R C O) (hi : s.Inv) (hc : 1 ≤ f.count s) :
    let d := f.dest s
    let t := (applyShift op f s).advance f.len
    Wrote s t d (R d.width (d.read s)) op.flags f.len ∧ t.flags.cf = C d.width (d.read s) (d.read t) ∧
      (f.count s = 1 → t.flags.ofl = O d.width (d.read s) (d.read t) t.flags.cf) ∧
      (op.isShift = true → SzpOf d.width (R d.width (d.read s)) t.flags) := by
  obtain ⟨r, cf, ⟨rfl, carry⟩, wrote, tcf, ofl, szp⟩ := applyShift_spec op f s hi hc
    (fun n v _ r cf => r = R n v ∧ cf = C n v r)
    (fun n hn v => ⟨h.value (two_le_of_width hn) v, h.carry (two_le_of_width hn) v⟩)
    (fun n v r cf o => o = O n v r cf) (fun n hn => h.overflow (two_le_of_width hn))
  refine ⟨wrote, ?_, ?_, szp⟩ <;> rw [wrote.value.1, tcf]
  · exact carry
  · exact ofl

/-- Steps that `F 1` follows through the abstraction `abs` are followed by `F cnt` when repeated `cnt` times. -/
theorem abs_repeatStep {st : ShiftStep} {n : Nat} {α : Type} (abs : BitVec n × Bool → α) (F : Nat → α → α)
    (zero : ∀ a, F 0 a = a) (succ : ∀ k a, F (k + 1) a = F 1 (F k a)) (step : ∀ x, abs (st n x.1 x.2) = F 1 (abs x))
    (cnt : Nat) (x : BitVec n × Bool) : abs (repeatStep st cnt x) = F cnt (abs x) := by
  induction cnt with
  | zero => exact (zero _).symm
  | succ k ih => rw [repeatStep_succ, step, ih, ← succ]

end Sys2Proof.Machine
end

section
/-! The family 41_logic_shift.md: the closed forms of the shifts (41_logic_shift.md R191 to R193). -/

namespace Sys2Proof.Machine

/-! ### Single bits -/

theorem getLsbD_lowBit {n i : Nat} (hi : i < n) (b : Bool) : (lowBit n b).getLsbD i = (decide (i = 0) && b) := by
  simp [lowBit, BitVec.getLsbD_ofBool, hi]

theorem getLsbD_highBit {n i : Nat} (hi : i < n) (b : Bool) :
    (highBit n b).getLsbD i = (decide (i = n - 1) && b) := by
  rw [highBit, BitVec.getLsbD_shiftLeft, getLsbD_lowBit (by omega)]
  by_cases h : i = n - 1 <;> simp [h] <;> omega

section ShiftedIn

variable {n i : Nat} (hi : i < n) (v : BitVec n) (b : Bool)

include hi

theorem getLsbD_shiftLeft_or : ((v <<< 1) ||| lowBit n b).getLsbD i = if i = 0 then b else v.getLsbD (i - 1) := by
  rw [BitVec.getLsbD_or, BitVec.getLsbD_shiftLeft, getLsbD_lowBit hi]
  by_cases bottom : i = 0 <;> simp [bottom, hi]

theorem getLsbD_shiftRight_or :
    ((v >>> 1) ||| highBit n b).getLsbD i = if i = n - 1 then b else v.getLsbD (1 + i) := by
  rw [BitVec.getLsbD_or, BitVec.getLsbD_ushiftRight, getLsbD_highBit hi]
  by_cases top : i = n - 1
  · rw [BitVec.getLsbD_of_ge v _ (by omega)]
    simp [top]
  · simp [top]

end ShiftedIn

/-! ### The repeated steps are the shifts of the library -/

theorem shiftRight_one_or_sign {n : Nat} (v : BitVec n) : (v >>> 1) ||| highBit n v.msb = v.sshiftRight 1 := by
  refine BitVec.eq_of_getLsbD_eq fun i hi => ?_
  rw [getLsbD_shiftRight_or hi, BitVec.getLsbD_sshiftRight, decide_eq_false (by omega)]
  by_cases top : i = n - 1
  · rw [if_pos top, if_neg (by omega)]
    rfl
  · rw [if_neg top, if_pos (by omega)]
    rfl

section Shifted

variable {n : Nat} (cnt : Nat) (v : BitVec n) (c : Bool)

theorem repeatStep_shl : (repeatStep shlStep cnt (v, c)).1 = v <<< cnt :=
  abs_repeatStep Prod.fst (fun k v => v <<< k) BitVec.shiftLeft_zero (fun k v => BitVec.shiftLeft_add v k 1)
    (fun _ => rfl) cnt (v, c)

theorem repeatStep_shr : (repeatStep shrStep cnt (v, c)).1 = v >>> cnt :=
  abs_repeatStep Prod.fst (fun k v => v >>> k) BitVec.ushiftRight_zero (fun k v => BitVec.shiftRight_add v k 1)
    (fun _ => rfl) cnt (v, c)

theorem repeatStep_sar : (repeatStep sarStep cnt (v, c)).1 = v.sshiftRight cnt :=
  abs_repeatStep Prod.fst (fun k v => v.sshiftRight k) (fun _ => BitVec.sshiftRight_zero)
    (fun _ _ => BitVec.sshiftRight_add) (fun _ => shiftRight_one_or_sign _) cnt (v, c)

end Shifted

theorem toNat_sshiftRight_eq {n : Nat} (v : BitVec n) (k : Nat) :
    (v.sshiftRight k).toNat = ((signedOf n v.toNat / (2 : Int) ^ k) % (2 : Int) ^ n).toNat := by
  rw [signedOf_toNat, BitVec.sshiftRight, BitVec.toNat_ofInt, Int.shiftRight_eq_div_pow]
  push_cast
  rfl

/-! ### The closed forms -/

theorem leftOverflow_eq {n : Nat} (hn : 2 ≤ n) (v r : BitVec n) (cf : Bool) :
    leftOverflow n v r cf = (r.toNat.testBit (n - 1) ^^ cf) := by
  rw [leftOverflow, msb_eq_testBit r (by omega)]

section ClosedForms

variable {cnt : Nat} (c : Bool)

theorem shl_closedForm (h : 1 ≤ cnt) : shlOp.ClosedForm cnt c (fun n v => v * 2 ^ cnt % 2 ^ n)
    (fun n v _ => decide (cnt ≤ n) && v.testBit (n - cnt)) (fun n _ r cf => r.testBit (n - 1) ^^ cf) where
  value _ v := by rw [shlOp, repeatStep_shl, BitVec.toNat_shiftLeft, Nat.shiftLeft_eq]
  carry {n} _ v := by
    obtain ⟨k, rfl⟩ := Nat.exists_eq_add_of_le' h
    rw [shlOp, repeatStep_succ, repeatStep_shl, BitVec.testBit_toNat, Nat.add_comm, ← Nat.sub_sub, Nat.add_comm]
    exact BitVec.msb_shiftLeft
  overflow := leftOverflow_eq

theorem shr_closedForm (h : 1 ≤ cnt) : shrOp.ClosedForm cnt c (fun _ v => v / 2 ^ cnt)
    (fun _ v _ => v.testBit (cnt - 1)) (fun n v _ _ => v.testBit (n - 1)) where
  value _ v := by rw [shrOp, repeatStep_shr, BitVec.toNat_ushiftRight, Nat.shiftRight_eq_div_pow]
  carry _ v := by
    obtain ⟨k, rfl⟩ := Nat.exists_eq_add_of_le' h
    rw [shrOp, repeatStep_succ, repeatStep_shr, BitVec.testBit_toNat]
    exact BitVec.getLsbD_ushiftRight v k 0
  overflow hn v _ _ := msb_eq_testBit v (by omega)

theorem sar_closedForm (h : 1 ≤ cnt) : sarOp.ClosedForm cnt c
    (fun n v => ((signedOf n v / (2 : Int) ^ cnt) % (2 : Int) ^ n).toNat)
    (fun n v _ => if cnt ≤ n then v.testBit (cnt - 1) else v.testBit (n - 1)) (fun _ _ _ _ => false) where
  value _ v := by rw [sarOp, repeatStep_sar, toNat_sshiftRight_eq]
  carry {n} hn v := by
    obtain ⟨k, rfl⟩ := Nat.exists_eq_add_of_le' h
    rw [sarOp, repeatStep_succ, repeatStep_sar, BitVec.testBit_toNat, ← msb_eq_testBit v (by omega)]
    refine (BitVec.getLsbD_sshiftRight v k 0).trans ?_
    rw [decide_eq_false (by omega), Nat.add_zero]
    rfl
  overflow _ _ _ _ := rfl

end ClosedForms

/-! ### The whole instructions -/

theorem Dest.two_le_width (d : Dest) : 2 ≤ d.width := by
  cases d <;> simp [Dest.width]

/-- Doubling moves the bit below the sign bit into its place. -/
theorem testBit_double_mod {n : Nat} (hn : 2 ≤ n) (v : Nat) :
    (v * 2 ^ 1 % 2 ^ n).testBit (n - 1) = v.testBit (n - 2) := by
  rw [Nat.testBit_mod_two_pow, Nat.testBit_mul_two_pow, decide_eq_true (by omega), decide_eq_true (by omega)]
  rfl

/-- Settles O28: `cnt` steps are one shift of the whole value by `cnt`, and the carry is the bit at the edge one step
before. -/
theorem shiftResult : Obligations.ShiftResult := by
  intro f s hi hc d n v c
  refine ⟨?shl, ?shr, ?sar⟩
  case shl =>
    obtain ⟨wrote, cf, ofl, szp⟩ := (shl_closedForm s.flags.cf hc).applied hi hc
    refine ⟨_, rfl, wrote, cf, fun (one : f.count s = 1) => ?_, szp rfl⟩
    have two : 2 ≤ n := d.two_le_width
    rw [ofl one, cf, wrote.value.1, one, testBit_double_mod two, decide_eq_true (one_le_two.trans two), Bool.true_and]
  case shr =>
    obtain ⟨wrote, cf, ofl, szp⟩ := (shr_closedForm s.flags.cf hc).applied hi hc
    exact ⟨_, rfl, wrote, cf, ofl, szp rfl⟩
  case sar =>
    obtain ⟨wrote, cf, ofl, szp⟩ := (sar_closedForm s.flags.cf hc).applied hi hc
    exact ⟨_, rfl, wrote, cf, ofl, szp rfl⟩

end Sys2Proof.Machine
end

section
/-! The family 41_logic_shift.md: the closed forms of the rotates (41_logic_shift.md R187 to R190). RCL and RCR rotate
the `N + 1` bits of CF and operand. -/

namespace Sys2Proof.Machine

/-! ### Rotations in numbers -/

/-- The `w`-bit rotation of `x` to the left by `cnt` modulo `w`. -/
def rotatedLeft (w cnt x : Nat) : Nat := x * 2 ^ (cnt % w) % 2 ^ w + x / 2 ^ (w - cnt % w)

/-- The `w`-bit rotation of `x` to the right by `cnt` modulo `w`. -/
def rotatedRight (w cnt x : Nat) : Nat := x / 2 ^ (cnt % w) + x * 2 ^ (w - cnt % w) % 2 ^ w

/-- The two parts of a rotation have no bit in common. -/
theorem shiftLeft_or_shiftRight_eq_add {w c x : Nat} (hc : c ≤ w) (hx : x < 2 ^ w) :
    x <<< c % 2 ^ w ||| x >>> (w - c) = x * 2 ^ c % 2 ^ w + x / 2 ^ (w - c) := by
  have factors : 2 ^ w = 2 ^ (w - c) * 2 ^ c := by rw [← pow_add, Nat.sub_add_cancel hc]
  have small : x / 2 ^ (w - c) < 2 ^ c := Nat.div_lt_of_lt_mul (factors ▸ hx)
  rw [Nat.shiftLeft_eq, Nat.shiftRight_eq_div_pow, factors, Nat.mul_mod_mul_right, ← Nat.shiftLeft_eq,
    Nat.shiftLeft_add_eq_or_of_lt small]

section Numbers

variable {w : Nat} (hw : 0 < w) (x : BitVec w) (cnt : Nat)

include hw

theorem toNat_rotateLeft_eq : (x.rotateLeft cnt).toNat = rotatedLeft w cnt x.toNat := by
  rw [BitVec.toNat_rotateLeft, shiftLeft_or_shiftRight_eq_add (Nat.mod_lt cnt hw).le x.isLt, rotatedLeft]

theorem toNat_rotateRight_eq : (x.rotateRight cnt).toNat = rotatedRight w cnt x.toNat := by
  have back : w - (w - cnt % w) = cnt % w := Nat.sub_sub_self (Nat.mod_lt cnt hw).le
  have parts := shiftLeft_or_shiftRight_eq_add (Nat.sub_le w (cnt % w)) x.isLt
  rw [back] at parts
  rw [BitVec.toNat_rotateRight, Nat.or_comm, parts, Nat.add_comm, rotatedRight]

end Numbers

/-! ### Rotations one bit at a time -/

section OneBit

variable {w : Nat} (x : BitVec w) (k : Nat)

theorem rotateLeft_zero : x.rotateLeft 0 = x := by
  refine BitVec.eq_of_getMsbD_eq fun i hi => ?_
  rw [BitVec.getMsbD_rotateLeft, Nat.zero_add, Nat.mod_eq_of_lt hi, decide_eq_true hi, Bool.true_and]

theorem rotateLeft_succ : x.rotateLeft (k + 1) = (x.rotateLeft k).rotateLeft 1 := by
  refine BitVec.eq_of_getMsbD_eq fun i hi => ?_
  have inside : (1 + i) % w < w := Nat.mod_lt _ (Nat.zero_lt_of_lt hi)
  rw [BitVec.getMsbD_rotateLeft, BitVec.getMsbD_rotateLeft, BitVec.getMsbD_rotateLeft, decide_eq_true inside,
    Bool.true_and, Nat.add_mod_mod, Nat.add_assoc]

theorem getLsbD_rotateRight_eq {i : Nat} (hi : i < w) : (x.rotateRight k).getLsbD i = x.getLsbD ((k + i) % w) := by
  have small : k % w < w := Nat.mod_lt k (Nat.zero_lt_of_lt hi)
  rw [BitVec.getLsbD_rotateRight, ← Nat.mod_add_mod k w i, decide_eq_true hi, Bool.true_and]
  by_cases within : i < w - k % w
  · rw [decide_eq_true within, cond_true, Nat.mod_eq_of_lt (show k % w + i < w by omega)]
  · rw [decide_eq_false within, cond_false, Nat.mod_eq_sub_mod (show w ≤ k % w + i by omega),
      Nat.mod_eq_of_lt (show k % w + i - w < w by omega)]
    congr 1
    omega

theorem rotateRight_zero : x.rotateRight 0 = x := by
  refine BitVec.eq_of_getLsbD_eq fun i hi => ?_
  rw [getLsbD_rotateRight_eq x 0 hi, Nat.zero_add, Nat.mod_eq_of_lt hi]

theorem rotateRight_succ : x.rotateRight (k + 1) = (x.rotateRight k).rotateRight 1 := by
  refine BitVec.eq_of_getLsbD_eq fun i hi => ?_
  have inside : (1 + i) % w < w := Nat.mod_lt _ (Nat.zero_lt_of_lt hi)
  rw [getLsbD_rotateRight_eq x _ hi, getLsbD_rotateRight_eq _ 1 hi, getLsbD_rotateRight_eq x k inside,
    Nat.add_mod_mod, Nat.add_assoc]

end OneBit

/-! ### The steps as rotations by 1 -/

/-- The quantity `CF ++ v` of R189. -/
def withCarry {n : Nat} (x : BitVec n × Bool) : BitVec (n + 1) := BitVec.cons x.2 x.1

section WithCarry

variable {n : Nat} (x : BitVec n × Bool)

theorem getLsbD_withCarry (i : Nat) : (withCarry x).getLsbD i = if i = n then x.2 else x.1.getLsbD i :=
  BitVec.getLsbD_cons x.2 x.1 i

theorem toNat_withCarry : (withCarry x).toNat = x.2.toNat * 2 ^ n + x.1.toNat := by
  rw [withCarry, BitVec.toNat_cons', Nat.shiftLeft_eq]

theorem toNat_withCarry_mod : (withCarry x).toNat % 2 ^ n = x.1.toNat := by
  rw [toNat_withCarry, Nat.mul_add_mod_of_lt x.1.isLt]

theorem testBit_withCarry : (withCarry x).toNat.testBit n = x.2 := by
  rw [BitVec.testBit_toNat, getLsbD_withCarry, if_pos rfl]

end WithCarry

section Steps

variable {n i : Nat}

theorem getLsbD_rotateLeft_one (hn : 2 ≤ n) (hi : i < n) (v : BitVec n) :
    (v.rotateLeft 1).getLsbD i = if i = 0 then v.getLsbD (n - 1) else v.getLsbD (i - 1) := by
  rw [BitVec.getLsbD_rotateLeft, Nat.mod_eq_of_lt (show 1 < n by omega), decide_eq_true hi]
  by_cases bottom : i = 0 <;> simp [bottom]

theorem getLsbD_rotateRight_one (hi : i < n) (v : BitVec n) :
    (v.rotateRight 1).getLsbD i = if i = n - 1 then v.getLsbD 0 else v.getLsbD (1 + i) := by
  rw [getLsbD_rotateRight_eq v 1 hi]
  by_cases top : i = n - 1
  · rw [if_pos top, show 1 + i = n by omega, Nat.mod_self]
  · rw [if_neg top, Nat.mod_eq_of_lt (by omega)]

theorem rolStep_value (hn : 2 ≤ n) (v : BitVec n) (c : Bool) : (rolStep n v c).1 = v.rotateLeft 1 := by
  refine BitVec.eq_of_getLsbD_eq fun i hi => ?_
  rw [rolStep, getLsbD_shiftLeft_or hi, getLsbD_rotateLeft_one hn hi, BitVec.msb_eq_getLsbD_last]

theorem rorStep_value (v : BitVec n) (c : Bool) : (rorStep n v c).1 = v.rotateRight 1 := by
  refine BitVec.eq_of_getLsbD_eq fun i hi => ?_
  rw [rorStep, getLsbD_shiftRight_or hi, getLsbD_rotateRight_one hi]

theorem withCarry_rclStep (hn : 2 ≤ n) (v : BitVec n) (c : Bool) :
    withCarry (rclStep n v c) = (withCarry (v, c)).rotateLeft 1 := by
  refine BitVec.eq_of_getLsbD_eq fun i hi => ?_
  rw [getLsbD_rotateLeft_one (by omega) hi, getLsbD_withCarry, getLsbD_withCarry, getLsbD_withCarry, rclStep]
  by_cases top : i = n
  · rw [if_pos top, if_neg (by omega), if_neg (by omega), BitVec.msb_eq_getLsbD_last, top]
  · rw [if_neg top, getLsbD_shiftLeft_or (by omega), if_pos (Nat.add_sub_cancel n 1), if_neg (show i - 1 ≠ n by omega)]

theorem withCarry_rcrStep (hn : 2 ≤ n) (v : BitVec n) (c : Bool) :
    withCarry (rcrStep n v c) = (withCarry (v, c)).rotateRight 1 := by
  refine BitVec.eq_of_getLsbD_eq fun i hi => ?_
  rw [getLsbD_rotateRight_one hi, getLsbD_withCarry, getLsbD_withCarry, getLsbD_withCarry, rcrStep, Nat.add_sub_cancel,
    if_neg (show 0 ≠ n by omega)]
  by_cases top : i = n
  · rw [if_pos top, if_pos top]
  · have high : 1 + i = n ↔ i = n - 1 := by omega
    rw [if_neg top, if_neg top, getLsbD_shiftRight_or (by omega)]
    simp only [high]

end Steps

/-! ### The repeated steps -/

section Rotated

variable {n : Nat} (cnt : Nat) (x : BitVec n × Bool)

theorem repeatStep_rol (hn : 2 ≤ n) : (repeatStep rolStep cnt x).1 = x.1.rotateLeft cnt :=
  abs_repeatStep Prod.fst (fun k v => v.rotateLeft k) rotateLeft_zero (fun k v => rotateLeft_succ v k)
    (fun _ => rolStep_value hn _ _) cnt x

theorem repeatStep_ror : (repeatStep rorStep cnt x).1 = x.1.rotateRight cnt :=
  abs_repeatStep Prod.fst (fun k v => v.rotateRight k) rotateRight_zero (fun k v => rotateRight_succ v k)
    (fun _ => rorStep_value _ _) cnt x

theorem repeatStep_rcl (hn : 2 ≤ n) : withCarry (repeatStep rclStep cnt x) = (withCarry x).rotateLeft cnt :=
  abs_repeatStep withCarry (fun k v => v.rotateLeft k) rotateLeft_zero (fun k v => rotateLeft_succ v k)
    (fun _ => withCarry_rclStep hn _ _) cnt x

theorem repeatStep_rcr (hn : 2 ≤ n) : withCarry (repeatStep rcrStep cnt x) = (withCarry x).rotateRight cnt :=
  abs_repeatStep withCarry (fun k v => v.rotateRight k) rotateRight_zero (fun k v => rotateRight_succ v k)
    (fun _ => withCarry_rcrStep hn _ _) cnt x

end Rotated

/-! ### The closed forms -/

/-- The new carry of ROL is the bit that went round into the lowest place. -/
theorem rolStep_carry {n : Nat} (hn : 2 ≤ n) (v : BitVec n) (c : Bool) :
    (rolStep n v c).2 = (rolStep n v c).1.getLsbD 0 := by
  rw [rolStep, getLsbD_shiftLeft_or (by omega), if_pos rfl]

/-- The new carry of ROR is the bit that went round into the highest place. -/
theorem rorStep_carry {n : Nat} (hn : 2 ≤ n) (v : BitVec n) (c : Bool) :
    (rorStep n v c).2 = (rorStep n v c).1.getLsbD (n - 1) := by
  rw [rorStep, getLsbD_shiftRight_or (by omega), if_pos rfl]

theorem rotateRightOverflow_eq {n : Nat} (hn : 2 ≤ n) (v r : BitVec n) (cf : Bool) :
    rotateRightOverflow n v r cf = (r.toNat.testBit (n - 1) ^^ r.toNat.testBit (n - 2)) := by
  rw [rotateRightOverflow, msb_eq_testBit r (by omega)]
  rfl

section ClosedForms

variable {cnt : Nat} (c : Bool)

theorem rol_closedForm (h : 1 ≤ cnt) : rolOp.ClosedForm cnt c (fun n v => rotatedLeft n cnt v)
    (fun _ _ r => r.testBit 0) (fun n _ r cf => r.testBit (n - 1) ^^ cf) where
  value hn v := by rw [rolOp, repeatStep_rol _ _ hn, toNat_rotateLeft_eq (by omega)]
  carry hn v := by
    obtain ⟨k, rfl⟩ := Nat.exists_eq_add_of_le' h
    rw [rolOp, repeatStep_succ, rolStep_carry hn, BitVec.testBit_toNat]
  overflow := leftOverflow_eq

theorem ror_closedForm (h : 1 ≤ cnt) : rorOp.ClosedForm cnt c (fun n v => rotatedRight n cnt v)
    (fun n _ r => r.testBit (n - 1)) (fun n _ r _ => r.testBit (n - 1) ^^ r.testBit (n - 2)) where
  value hn v := by rw [rorOp, repeatStep_ror, toNat_rotateRight_eq (by omega)]
  carry hn v := by
    obtain ⟨k, rfl⟩ := Nat.exists_eq_add_of_le' h
    rw [rorOp, repeatStep_succ, rorStep_carry hn, BitVec.testBit_toNat]
  overflow := rotateRightOverflow_eq

theorem rcl_closedForm : rclOp.ClosedForm cnt c (fun n v => rotatedLeft (n + 1) cnt (c.toNat * 2 ^ n + v) % 2 ^ n)
    (fun n v _ => (rotatedLeft (n + 1) cnt (c.toNat * 2 ^ n + v)).testBit n)
    (fun n _ r cf => r.testBit (n - 1) ^^ cf) where
  value hn v := by
    rw [rclOp, ← toNat_withCarry_mod, repeatStep_rcl _ _ hn, toNat_rotateLeft_eq (by omega), toNat_withCarry]
  carry hn v := by
    rw [rclOp, ← testBit_withCarry, repeatStep_rcl _ _ hn, toNat_rotateLeft_eq (by omega), toNat_withCarry]
  overflow := leftOverflow_eq

theorem rcr_closedForm : rcrOp.ClosedForm cnt c (fun n v => rotatedRight (n + 1) cnt (c.toNat * 2 ^ n + v) % 2 ^ n)
    (fun n v _ => (rotatedRight (n + 1) cnt (c.toNat * 2 ^ n + v)).testBit n)
    (fun n _ r _ => r.testBit (n - 1) ^^ r.testBit (n - 2)) where
  value hn v := by
    rw [rcrOp, ← toNat_withCarry_mod, repeatStep_rcr _ _ hn, toNat_rotateRight_eq (by omega), toNat_withCarry]
  carry hn v := by
    rw [rcrOp, ← testBit_withCarry, repeatStep_rcr _ _ hn, toNat_rotateRight_eq (by omega), toNat_withCarry]
  overflow := rotateRightOverflow_eq

end ClosedForms

/-! ### The whole instructions -/

/-- Settles O29: the steps of ROL and ROR are rotations of the operand by 1. -/
theorem rotateResult : Obligations.RotateResult := by
  intro f s hi hc d n v c
  obtain ⟨wroteL, cfL, oflL, -⟩ := (rol_closedForm s.flags.cf hc).applied hi hc
  obtain ⟨wroteR, cfR, oflR, -⟩ := (ror_closedForm s.flags.cf hc).applied hi hc
  exact ⟨⟨_, rfl, wroteL, cfL, oflL⟩, ⟨_, rfl, wroteR, cfR, oflR⟩⟩

/-- Settles O30: the steps of RCL and RCR are rotations of the operand with CF above it by 1. -/
theorem rotateThroughCarryResult : Obligations.RotateThroughCarryResult := by
  intro f s hi hc d n x c
  obtain ⟨wroteL, cfL, oflL, -⟩ := (rcl_closedForm s.flags.cf).applied hi hc
  obtain ⟨wroteR, cfR, oflR, -⟩ := (rcr_closedForm s.flags.cf).applied hi hc
  exact ⟨⟨_, rfl, wroteL, cfL, oflL⟩, ⟨_, rfl, wroteR, cfR, oflR⟩⟩

end Sys2Proof.Machine
end

section
/-! The family 42_control_transfer.md: jumps (42_control_transfer.md R211 to R213, R230 to R233; 30_encoding.md R109,
R123). -/

namespace Sys2Proof.Machine

/-! ### Relative jumps on a condition -/

theorem toNat_ip_jumpIf (s : State) (taken : Bool) (rel : Byte) : ((s.jumpIf taken rel).ip.toNat : Int) =
    ((s.ip.toNat : Int) + 2 + (if taken then signedOf 8 rel.toNat else 0)) % 65536 := by
  cases taken with
  | false => simp [State.jumpIf, State.advance, State.nextIp]
  | true =>
    have displacement := toNat_signExtend_byte rel
    simp only [State.jumpIf, if_true, State.setIp_ip, State.relTarget, State.nextIp, BitVec.toNat_add,
      BitVec.toNat_ofNat]
    omega

/-- A relative jump writes IP alone, whether taken or not. -/
theorem only_jumpIf (s : State) (taken : Bool) (rel : Byte) : Only s (s.jumpIf taken rel) [] [] [] [] := by
  cases taken
  · exact only_advance s 2
  · exact only_setIp s _

theorem conditional_jump {s : State} {o : Outcome State} {taken : Bool} {rel : Byte}
    (run : o = .next (s.jumpIf taken rel)) : ∃ t, o = .next t ∧ Only s t [] [] [] [] ∧
      (t.ip.toNat : Int) = ((s.ip.toNat : Int) + 2 + (if taken then signedOf 8 rel.toNat else 0)) % 65536 :=
  ⟨_, run, only_jumpIf s taken rel, toNat_ip_jumpIf s taken rel⟩

/-! ### JMP -/

/-- Settles O40: a short jump is a taken relative one, every other form loads IP, and CS where it is far, with words
read before. -/
theorem jumpTargets : Obligations.JumpTargets := by
  intro rb rw off seg e m r s
  have far (o g : Word) : Only s ((s.setSReg .cs g).setIp o) [] [.cs] [] [] := (only_setSReg s .cs g).setIp o
  refine ⟨⟨_, rfl, toNat_ip_jumpIf s true rb, only_jumpIf s true rb⟩, ⟨_, rfl, ?near, only_setIp s _⟩,
    ⟨_, rfl, (read_dest16 s e).symm, only_setIp s _⟩, ⟨_, rfl, rfl, rfl, far off seg⟩,
    ⟨_, rfl, rfl, rfl, far _ _⟩, rfl⟩
  case near => simp [State.relTarget, State.nextIp, BitVec.toNat_add]

/-! ### The conditions of R213 -/

section Negated

variable (f : Flags)

theorem not_belowOrEqual : (!f.belowOrEqual) = (!f.cf && !f.zf) := Bool.not_or f.cf f.zf

theorem not_less : (!f.less) = (f.sf == f.ofl) := Bool.not_not (f.sf == f.ofl)

theorem not_lessOrEqual : (!f.lessOrEqual) = (!f.zf && !f.less) := Bool.not_or f.zf f.less

end Negated

/-- Settles O41: each of the sixteen is a relative jump on its condition; three of the negated ones are written out in
R213. -/
theorem conditionalJumps : Obligations.ConditionalJumps := by
  intro rel s
  simp only [List.forall_mem_cons, ← not_belowOrEqual, ← not_less, ← not_lessOrEqual]
  exact ⟨conditional_jump rfl, conditional_jump rfl, conditional_jump rfl, conditional_jump rfl, conditional_jump rfl,
    conditional_jump rfl, conditional_jump rfl, conditional_jump rfl, conditional_jump rfl, conditional_jump rfl,
    conditional_jump rfl, conditional_jump rfl, conditional_jump rfl, conditional_jump rfl, conditional_jump rfl,
    conditional_jump rfl, List.forall_mem_nil _⟩

/-! ### LOOP, LOOPZ, LOOPNZ, JCXZ -/

theorem cx_countDown (s : State) : s.countDown.reg16 .cx = s.reg16 .cx - 1 := rfl

theorem exec_loop (rel : Byte) (s : State) :
    exec (.loop rel) s = .next (s.countDown.jumpIf (s.countDown.reg16 .cx != 0 && true) rel) := by
  rw [Bool.and_true]
  rfl

theorem counted_jump {s : State} {o : Outcome State} {c : Bool} {rel : Byte}
    (run : o = .next (s.countDown.jumpIf (s.countDown.reg16 .cx != 0 && c) rel)) :
    ∃ t, o = .next t ∧ t.reg16 .cx = s.reg16 .cx - 1 ∧ Only s t [.cx] [] [] [] ∧
      (t.ip.toNat : Int) = ((s.ip.toNat : Int) + 2 +
        (if s.reg16 .cx ≠ 1 ∧ c = true then signedOf 8 rel.toNat else 0)) % 65536 := by
  have taken : (s.countDown.reg16 .cx != 0 && c) = true ↔ s.reg16 .cx ≠ 1 ∧ c = true := by
    rw [cx_countDown, Bool.and_eq_true, bne_iff_ne, sub_ne_zero]
  obtain ⟨t, run, frame, ip⟩ := conditional_jump run
  simp only [taken] at ip
  refine ⟨t, run, (frame.regs .cx (by simp)).trans (cx_countDown s), ?frame, ip⟩
  exact (only_setReg16 s .cx _).trans (frame.sub (by simp) (by simp) (by simp) (by simp))

/-- Settles O43: CX is counted down first, and counted down it is 0 exactly when it was 1. -/
theorem loopInstructions : Obligations.LoopInstructions := by
  intro rel s
  constructor
  · exact List.forall_mem_cons.2 ⟨counted_jump (exec_loop rel s), List.forall_mem_cons.2
      ⟨counted_jump rfl, List.forall_mem_singleton.2 (counted_jump rfl)⟩⟩
  · have run : exec (.jcxz rel) s = .next (s.jumpIf (s.reg16 .cx == 0) rel) := rfl
    obtain ⟨t, run, frame, ip⟩ := conditional_jump run
    simp only [beq_iff_eq] at ip
    exact ⟨t, run, frame, ip⟩

end Sys2Proof.Machine
end

section
/-! The family 42_control_transfer.md: the conditions of R213 on the flags that CMP leaves (40_arithmetic.md R141,
R148). -/

namespace Sys2Proof.Machine

/-- On the flags `f` the conditions of R213 compare the `w`-bit numbers `a` and `b`. -/
structure Compares (w a b : Nat) (f : Flags) : Prop where
  below        : f.below = decide (a < b)
  equal        : f.zf = decide (a = b)
  belowOrEqual : f.belowOrEqual = decide (a ≤ b)
  less         : f.less = decide (signedOf w a < signedOf w b)
  lessOrEqual  : f.lessOrEqual = decide (signedOf w a ≤ signedOf w b)

section Numbers

variable {w a b : Nat}

theorem subMod_eq_ite (ha : a < 2 ^ w) (hb : b < 2 ^ w) :
    subMod w a b 0 = if a < b then a + 2 ^ w - b else a - b := by
  have hab : (subMod w a b 0 : Int) = ((a : Int) - b) % (2 ^ w : Nat) := by
    simp [subMod, Int.toNat_of_nonneg (Int.emod_nonneg _ (by positivity : (2 : Int) ^ w ≠ 0))]
  split
  · rw [← Int.add_emod_right, Int.emod_eq_of_lt (by omega) (by omega)] at hab
    omega
  · rw [Int.emod_eq_of_lt (by omega) (by omega)] at hab
    omega

theorem signedOf_inj (ha : a < 2 ^ w) (hb : b < 2 ^ w) : signedOf w a = signedOf w b ↔ a = b := by
  have cast : (2 : Int) ^ w = (2 ^ w : Nat) := (Nat.cast_pow 2 w).symm
  unfold signedOf
  split <;> split <;> omega

/-- SF is the sign of the difference unless the difference is out of range, and then OF makes up for it. -/
theorem SubFlagsOf.less_eq {f : Flags} (h : SubFlagsOf w a b 0 f) (hw : 0 < w) (ha : a < 2 ^ w) (hb : b < 2 ^ w) :
    f.less = decide (signedOf w a < signedOf w b) := by
  have half : 2 ^ w = 2 * 2 ^ (w - 1) := (mul_comm 2 _ ▸ Nat.two_pow_pred_mul_two hw).symm
  have cast (k : Nat) : (2 : Int) ^ k = (2 ^ k : Nat) := (Nat.cast_pow 2 k).symm
  rw [Flags.less, h.szp.sf, h.ofl, subMod_eq_ite ha hb, Bool.eq_iff_iff, bne_iff_ne, ne_eq, Bool.eq_iff_iff]
  rw [half] at ha hb
  simp only [fitsSigned, signedOf, cast, half, decide_eq_true_eq, Bool.not_eq_true', Bool.and_eq_false_iff,
    decide_eq_false_iff_not]
  split <;> split <;> split <;> omega

theorem SubFlagsOf.compares {f : Flags} (h : SubFlagsOf w a b 0 f) (hw : 0 < w) (ha : a < 2 ^ w) (hb : b < 2 ^ w) :
    Compares w a b f := by
  have equal : f.zf = decide (a = b) := by
    rw [h.szp.zf, subMod_eq_ite ha hb, decide_eq_decide]
    split <;> omega
  have less := h.less_eq hw ha hb
  refine ⟨h.cf, equal, ?belowOrEqual, less, ?lessOrEqual⟩
  case belowOrEqual =>
    rw [Flags.belowOrEqual, h.cf, equal, ← Bool.decide_or, decide_eq_decide]
    exact Nat.le_iff_lt_or_eq.symm
  case lessOrEqual =>
    rw [Flags.lessOrEqual, ← Flags.less, less, equal, ← Bool.decide_or, decide_eq_decide, ← signedOf_inj ha hb]
    exact le_iff_eq_or_lt.symm

end Numbers

theorem subWith_compares (s : State) (n : Nat) (hn : n = 8 ∨ n = 16) (a b : BitVec n) :
    FlagsOnly s (subWith false n a b s).2 allStatus ∧ Compares n a.toNat b.toNat (subWith false n a b s).2.flags :=
  have ⟨only, _, flags⟩ := subWith_spec s false n hn a b
  ⟨only, flags.compares (by omega) a.isLt b.isLt⟩

/-- Settles O42: CMP leaves the flags of the difference of two operands of one width. -/
theorem jumpsAfterCompare : Obligations.JumpsAfterCompare := by
  intro f s t run
  obtain rfl : (compareAlu (subWith false) f s).advance f.len = t := Host.Outcome.next.inj run
  obtain ⟨-, -, below, equal, belowOrEqual, less, lessOrEqual⟩ :=
    compareAlu_spec (subWith false) s Compares (subWith_compares s) f
  exact ⟨below, equal, belowOrEqual, less, lessOrEqual⟩

end Sys2Proof.Machine
end

section
/-! The family 42_control_transfer.md: calls and returns (42_control_transfer.md R234 to R237, R241; 20_memory.md
R82). -/

namespace Sys2Proof.Machine

/-! ### Frames of an operation that goes on -/

section FrameSteps

variable {s t : State} {rs : List Reg16} {sg : List SReg} {fl : List StatusFlag} {st : List Nat}

theorem Only.setReg16 (h : Only s t rs sg fl st) {r : Reg16} (hr : r ∈ rs) (v : Word) :
    Only s (t.setReg16 r v) rs sg fl st :=
  h.trans ((only_setReg16 t r v).sub (by simpa using hr) (by simp) (by simp) (by simp))

theorem Only.setSReg (h : Only s t rs [] fl st) (r : SReg) (v : Word) : Only s (t.setSReg r v) rs [r] fl st :=
  (h.sub (by simp) (by simp) (by simp) (by simp)).trans
    ((only_setSReg t r v).sub (by simp) (by simp) (by simp) (by simp))

end FrameSteps

/-! ### Calls (R234, R235) -/

/-- Two words pushed, as one operation. -/
structure PushedTwice (s t : State) (v w : Word) : Prop where
  sp    : t.reg16 .sp = s.reg16 .sp - 4
  bytes : ∀ a, t.memRead8 a = ((s.memWrite16 (s.stackAddress (s.reg16 .sp - 2)) v).memWrite16
    (s.stackAddress (s.reg16 .sp - 4)) w).memRead8 a
  frame : Only s t [.sp] [] [] [s.stackAddress (s.reg16 .sp - 2), s.stackAddress (s.reg16 .sp - 2) + 1,
    s.stackAddress (s.reg16 .sp - 4), s.stackAddress (s.reg16 .sp - 4) + 1]

theorem stackAddress_congr {s t : State} (hs : t.sregs = s.sregs) (ho : t.ovr = s.ovr) (off : Word) :
    t.stackAddress off = s.stackAddress off := State.seg2abs_congr hs ho .ss off

theorem push16_push16 {s : State} (hi : s.Inv) (v w : Word) : PushedTwice s ((s.push16 v).push16 w) v w := by
  obtain ⟨frame1, sp1, -, -, -, -, sregs1, ovr1, cfg1, mem1, -⟩ := push16_spec s hi v
  obtain ⟨frame2, sp2, -, -, -, bytes2, -⟩ := push16_spec (s.push16 v) (hi.push16 s v) w
  have sp : (s.push16 v).reg16 .sp - 2 = s.reg16 .sp - 4 := by rw [sp1, BitVec.sub_sub]; rfl
  rw [sp, stackAddress_congr sregs1 ovr1] at frame2 bytes2
  refine ⟨sp2.trans sp, fun a => (bytes2 a).trans ?bytes, ?frame⟩
  case bytes => exact State.memRead8_congr (memWrite16_mem_congr mem1 cfg1 _ _) (by simpa using cfg1) a
  case frame =>
    exact (frame1.sub (by simp) (by simp) (by simp) (by simp)).trans
      (frame2.sub (by simp) (by simp) (by simp) (by simp))

theorem called_near {s : State} {o : Outcome State} {target : Word} {len : Nat} (hi : s.Inv)
    (run : o = .next (s.callNear target len)) :
    ∃ t, o = .next t ∧ t.ip = target ∧ t.reg16 .sp = s.reg16 .sp - 2 ∧
      t.memRead16 (s.stackAddress (s.reg16 .sp - 2)) = s.nextIp len ∧
      Only s t [.sp] [] [] [s.stackAddress (s.reg16 .sp - 2), s.stackAddress (s.reg16 .sp - 2) + 1] := by
  obtain ⟨frame, sp, slot, -⟩ := push16_spec s hi (s.nextIp len)
  exact ⟨_, run, rfl, sp, slot, frame.setIp target⟩

theorem called_far {s : State} {o : Outcome State} {off seg : Word} {len : Nat} (hi : s.Inv)
    (run : o = .next (s.callTo off seg len)) :
    ∃ t, o = .next t ∧ t.ip = off ∧ t.sreg .cs = seg ∧ t.reg16 .sp = s.reg16 .sp - 4 ∧
      (∀ a, t.memRead8 a = ((s.memWrite16 (s.stackAddress (s.reg16 .sp - 2)) (s.sreg .cs)).memWrite16
        (s.stackAddress (s.reg16 .sp - 4)) (s.nextIp len)).memRead8 a) ∧
      Only s t [.sp] [.cs] [] [s.stackAddress (s.reg16 .sp - 2), s.stackAddress (s.reg16 .sp - 2) + 1,
        s.stackAddress (s.reg16 .sp - 4), s.stackAddress (s.reg16 .sp - 4) + 1] := by
  obtain ⟨sp, bytes, frame⟩ := push16_push16 hi (s.sreg .cs) (s.nextIp len)
  exact ⟨_, run, rfl, rfl, sp, bytes, (frame.setSReg .cs seg).setIp off⟩

/-- Settles O44: a near call is a push and a jump, a far call two pushes and a far jump. -/
theorem callResult : Obligations.CallResult := by
  intro rel off seg e m r s hi slot1 slot2 len
  refine ⟨called_near hi rfl, ?indirect, called_far hi rfl, called_far hi rfl, rfl⟩
  case indirect =>
    have run : exec (.callRm e) s = .next (s.callNear (s.readE16 e) (2 + e.dispLen)) := rfl
    obtain ⟨t, run, ip, rest⟩ := called_near hi run
    exact ⟨t, run, (congrArg BitVec.toNat ip).trans (read_dest16 s e).symm, rest⟩

/-! ### Returns (R236, R237) -/

theorem popIp_spec (s : State) :
    s.popIp.ip = s.stackTop ∧ s.popIp.reg16 .sp = s.reg16 .sp + 2 ∧ Only s s.popIp [.sp] [] [] [] :=
  ⟨rfl, rfl, (only_setReg16 s .sp _).setIp _⟩

/-- The second word is read with SP moved and nothing else an address depends on. -/
theorem stackTop_popIp (s : State) : s.popIp.stackTop = s.memRead16 (s.stackAddress (s.reg16 .sp + 2)) := rfl

theorem popIp_popCs_spec (s : State) : s.popIp.popCs.ip = s.stackTop ∧
    s.popIp.popCs.sreg .cs = s.memRead16 (s.stackAddress (s.reg16 .sp + 2)) ∧
    s.popIp.popCs.reg16 .sp = s.reg16 .sp + 4 ∧ Only s s.popIp.popCs [.sp] [.cs] [] [] := by
  obtain ⟨ip, sp, frame⟩ := popIp_spec s
  have moved : s.popIp.popCs.reg16 .sp = s.popIp.reg16 .sp + 2 := rfl
  refine ⟨ip, stackTop_popIp s, ?sp, (frame.setReg16 (by simp) _).setSReg .cs _⟩
  rw [moved, sp, BitVec.add_assoc]
  rfl

/-- Settles O45: a return is one or two pops, and the immediate is added to the SP they leave. -/
theorem returnResult : Obligations.ReturnResult := by
  intro n s second
  obtain ⟨nearIp, nearSp, near⟩ := popIp_spec s
  obtain ⟨farIp, farCs, farSp, far⟩ := popIp_popCs_spec s
  exact ⟨⟨_, rfl, nearIp, nearSp, near⟩,
    ⟨_, rfl, nearIp, congrArg (· + n) nearSp, near.setReg16 (by simp) _⟩,
    ⟨_, rfl, farIp, farCs, farSp, far⟩,
    ⟨_, rfl, (State.setReg16_ip _ _ _).trans farIp, (State.sreg_setReg16 _ _ _ _).trans farCs, congrArg (· + n) farSp,
      far.setReg16 (by simp) _⟩⟩

/-! ### IRET (R241) -/

theorem interruptReturn_eq (s : State) : s.interruptReturn =
    (s.popIp.popCs.setReg16 .sp (s.popIp.popCs.reg16 .sp + 2)).setFlags (Flags.ofWord s.popIp.popCs.stackTop) := rfl

/-- Settles O47: IRET is a far return, then a third pop into the flags; that pop reads in the state the far return
left, with its new CS. -/
theorem interruptReturnResult : Obligations.InterruptReturnResult := by
  intro s cs
  obtain ⟨ip, csLoaded, sp, frame⟩ := popIp_popCs_spec s
  have image : s.popIp.popCs.stackTop = s.memRead16 ((s.setSReg .cs cs).stackAddress (s.reg16 .sp + 4)) := by
    rw [State.stackTop, sp, stackAddress_congr (s := s.setSReg .cs cs) rfl rfl]
    exact State.memRead16_congr rfl rfl _
  have run : exec .iret s = _ := congrArg Host.Outcome.next (interruptReturn_eq s)
  generalize s.popIp.popCs = far at *
  have third := frame.setReg16 (r := .sp) (by simp) (far.reg16 .sp + 2)
  refine ⟨_, run, ip, csLoaded, ?sp, ?carried, fun r hr => third.regs r (by simpa), fun r hr => third.segs r (by simpa),
    fun a => third.bytes a (by simp), third.system.trans ?flags⟩
  case sp => exact (congrArg (· + 2) sp).trans (BitVec.add_assoc _ 4 2)
  case carried => rw [← image]; exact carriesFlags_ofWord _
  case flags => exact ⟨rfl, rfl, rfl, rfl, rfl, rfl, rfl, rfl, rfl⟩

end Sys2Proof.Machine
end

section
/-! The family 43_data_transfer.md: what an instruction does that writes an r/m operand after another register, to the
place computed before (30_encoding.md R102). -/

namespace Sys2Proof.Machine

/-! ### An r/m operand's place -/

theorem mem_regs_dest16_iff {s : State} {q : Reg16} {e : RM16} : q ∈ (s.dest16 e).regs ↔ e = .reg q := by
  cases e <;> simp [State.dest16, Dest.regs, eq_comm]

section PlaceOfBefore

variable {s u : State} (hu : u.Inv) (sregs : u.sregs = s.sregs) (ovr : u.ovr = s.ovr)

include hu sregs ovr

/-- In a state with the segment registers and the latch of `s`, a place computed in `s` is the destination it was. -/
theorem wrote_place8 (e : RM8) (v : Byte) (len : Nat) :
    Wrote u ((u.putPlace8 (s.place e) v).advance len) (s.dest8 e) v.toNat [] len := by
  cases e with
  | reg r => exact (FlagsOnly.refl u []).wrote_reg8 r v len
  | mem m =>
    have address : u.seg2abs m.seg (s.eaOff m) = s.operandAddress m := operandAddress_congr s u sregs ovr m
    rw [State.dest8, ← address]
    exact (FlagsOnly.refl u []).wrote_byte hu _ v len

theorem wrote_place16 (e : RM16) (v : Word) (len : Nat) :
    Wrote u ((u.putPlace16 (s.place e) v).advance len) (s.dest16 e) v.toNat [] len := by
  cases e with
  | reg r => exact (FlagsOnly.refl u []).wrote_reg16 r v len
  | mem m =>
    have address : u.seg2abs m.seg (s.eaOff m) = s.operandAddress m := operandAddress_congr s u sregs ovr m
    rw [State.dest16, ← address]
    exact (FlagsOnly.refl u []).wrote_word hu _ v len

end PlaceOfBefore

/-! ### Two writes -/

theorem State.Inv.setReg16 {s : State} (hi : s.Inv) (r : Reg16) (v : Word) : (s.setReg16 r v).Inv :=
  hi.of_same_clock (by simp) ⟨by simpa using hi.memory.1, by simpa using hi.memory.2⟩ (by simp) (by simp)

section SecondWrite

variable {s u t : State} {d : Dest} {v len : Nat} {fl : List StatusFlag}

/-- The frame of the two together; the first one wrote no flag and no memory. -/
theorem Wrote.frame_after (h : Wrote u t d v fl len) {rs : List Reg16} {sg : List SReg} (first : Only s u rs sg [] []) :
    Only s t (rs ++ d.regs) sg fl d.stored :=
  (first.sub (fun _ => List.mem_append_left _) (fun _ => id) (by simp) (by simp)).trans
    (h.frame.sub (fun _ => List.mem_append_right _) (by simp) (fun _ => id) (fun _ => id))

theorem Wrote.ip_after (h : Wrote u t d v fl len) (ip : u.ip = s.ip) : t.ip = s.ip + BitVec.ofNat 16 len := by
  rw [h.ip, ip]

/-- A write to an `Eb` operand leaves every byte register but the one it may be. -/
theorem Wrote.reg8_kept {e : RM8} (h : Wrote u t (s.dest8 e) v fl len) {q : Reg8} (hq : .reg8 q ≠ s.dest8 e) :
    t.reg8 q = u.reg8 q := by
  cases e with
  | reg r => exact h.value.2 q fun same => hq (congrArg Dest.reg8 same)
  | mem m => exact State.reg8_congr (regs_ext fun r => h.frame.regs r List.not_mem_nil) q

theorem Wrote.reg16_kept {e : RM16} (h : Wrote u t (s.dest16 e) v fl len) {q : Reg16} (hq : e ≠ .reg q) :
    t.reg16 q = u.reg16 q :=
  h.frame.regs q fun mem => hq (mem_regs_dest16_iff.1 mem)

end SecondWrite

end Sys2Proof.Machine
end

section
/-! The family 43_data_transfer.md: moves, exchanges and address loads (43_data_transfer.md R250 to R260). -/

namespace Sys2Proof.Machine

/-! ### MOV and XLAT -/

/-- Settles O32: each form is one write, of a byte or a word, with no flags written before it. -/
theorem movAndXlatResult : Obligations.MovAndXlatResult := by
  intro e8 e16 g8 g16 ign i j s hi
  have start := FlagsOnly.refl s []
  simp only [read_dest8, read_dest16, BitVec.ofNat_toNat]
  exact ⟨⟨_, rfl, start.wrote_e8 hi e8 _ _⟩, ⟨_, rfl, start.wrote_e16 hi e16 _ _⟩, ⟨_, rfl, start.wrote_reg8 g8 _ _⟩,
    ⟨_, rfl, start.wrote_reg16 g16 _ _⟩, ⟨_, rfl, start.wrote_e8 hi e8 i _⟩, ⟨_, rfl, start.wrote_e16 hi e16 j _⟩,
    ⟨_, rfl, start.wrote_reg8 g8 i 2⟩, ⟨_, rfl, start.wrote_reg16 g16 j 3⟩, ⟨_, rfl, start.wrote_reg8 .al _ 3⟩,
    ⟨_, rfl, start.wrote_reg16 .ax _ 3⟩, ⟨_, rfl, start.wrote_byte hi _ _ 3⟩, ⟨_, rfl, start.wrote_word hi _ _ 3⟩,
    ⟨_, rfl, start.wrote_reg8 .al _ 1⟩⟩

/-! ### MOV with a segment register -/

theorem ofSw_of_selector :
    ∀ r ∈ [((0 : BitVec 3), SReg.es), (1, .cs), (2, .ss), (3, .ds)], SReg.ofSw r.1 = some r.2 := by
  decide

/-- Settles O33: a selector of 0 to 3 names its segment register, and one of 4 or more is an encoding without
addressing. -/
theorem segmentMoveResult : Obligations.SegmentMoveResult := by
  intro e sw s hi
  refine ⟨?moved, fun h => ⟨?faultFrom, ?faultTo⟩⟩
  case faultFrom => exact exec_of_noAddressing (i := .movFromSeg e sw) (decide_eq_true h) s
  case faultTo => exact exec_of_noAddressing (i := .movToSeg sw e) (decide_eq_true h) s
  case moved =>
    rintro ⟨_, r⟩ hr rfl
    have selected := ofSw_of_selector _ hr
    refine ⟨⟨_, ?runFrom, (FlagsOnly.refl s []).wrote_e16 hi e _ _⟩,
      ⟨(s.setSReg r (s.readE16 e)).advance (2 + e.dispLen), ?runTo, ?loaded, (only_setSReg s r _).advance _, ?ip⟩⟩
    case runFrom => simp only [exec, execMovFromSeg, selected]
    case runTo => simp only [exec, execMovToSeg, selected]
    case loaded => simp [State.advance, read_dest16]
    case ip => exact advance_ip (State.setSReg_ip s r _) _

/-! ### XCHG -/

/-- By whether the register is the operand itself: then both values are the same one, and otherwise the second write
leaves what the first one put into the register. -/
theorem exchanged8 {s : State} (hi : s.Inv) (g : Reg8) (e : RM8) {o : Outcome State} {len : Nat}
    (run : o = .next (((s.setReg8 g (s.readE8 e)).putPlace8 (s.place e) (s.reg8 g)).advance len)) :
    ∃ t, o = .next t ∧ (t.reg8 g).toNat = (s.dest8 e).read s ∧ (s.dest8 e).read t = (s.reg8 g).toNat ∧
      (∀ q, q ≠ g → .reg8 q ≠ s.dest8 e → t.reg8 q = s.reg8 q) ∧
      Only s t (g.word :: (s.dest8 e).regs) [] [] (s.dest8 e).stored ∧ t.ip = s.ip + BitVec.ofNat 16 len := by
  have second := wrote_place8 (s := s) (u := s.setReg8 g (s.readE8 e)) (hi.setReg16 _ _) (by simp) (by simp) e
    (s.reg8 g) len
  refine ⟨_, run, ?register, second.value.1, ?others, second.frame_after (only_setReg8 s g _), second.ip_after (by simp)⟩
  case register =>
    by_cases same : .reg8 g = s.dest8 e
    · have held := second.value.1
      rw [← same] at held ⊢
      exact held
    · rw [second.reg8_kept same, State.reg8_setReg8, if_pos rfl, read_dest8]
  case others =>
    intro q hq hdest
    rw [second.reg8_kept hdest, State.reg8_setReg8, if_neg hq]

theorem exchanged16 {s : State} (hi : s.Inv) (g : Reg16) (e : RM16) {o : Outcome State} {len : Nat}
    (run : o = .next (((s.setReg16 g (s.readE16 e)).putPlace16 (s.place e) (s.reg16 g)).advance len)) :
    ∃ t, o = .next t ∧ (t.reg16 g).toNat = (s.dest16 e).read s ∧ (s.dest16 e).read t = (s.reg16 g).toNat ∧
      Only s t (g :: (s.dest16 e).regs) [] [] (s.dest16 e).stored ∧ t.ip = s.ip + BitVec.ofNat 16 len := by
  have second := wrote_place16 (s := s) (hi.setReg16 g (s.readE16 e)) (by simp) (by simp) e (s.reg16 g) len
  refine ⟨_, run, ?register, second.value.1, second.frame_after (only_setReg16 s g _), second.ip_after (by simp)⟩
  case register =>
    by_cases same : e = .reg g
    · subst same
      exact second.value.1
    · rw [second.reg16_kept same, State.reg16_setReg16, if_pos rfl, read_dest16]

/-- Settles O34: both values are read before the first write, and the operand's place is that of before. The exchange
with AX is that of AX with a register operand. -/
theorem exchangeResult : Obligations.ExchangeResult := by
  intro e8 e16 g8 g16 s hi
  obtain ⟨t, run, ax, register, frame, ip⟩ := exchanged16 (o := exec (.xchgAx g16) s) hi .ax (.reg g16) rfl
  exact ⟨exchanged8 hi g8 e8 rfl, exchanged16 hi g16 e16 rfl, t, run, BitVec.eq_of_toNat_eq ax,
    BitVec.eq_of_toNat_eq register, frame, ip⟩

/-! ### LEA, LDS, LES -/

theorem loaded_far {s : State} {g : Reg16} {m : MemOp} {r : SReg} {o : Outcome State} {len : Nat}
    (run : o = .next (((s.setReg16 g (s.readFar m).1).setSReg r (s.readFar m).2).advance len)) :
    ∃ t, o = .next t ∧ t.reg16 g = s.memRead16 (s.seg2abs m.seg (s.eaOff m)) ∧
      t.sreg r = s.memRead16 (s.seg2abs m.seg (s.eaOff m + 2)) ∧ Only s t [g] [r] [] [] ∧
      t.ip = s.ip + BitVec.ofNat 16 len := by
  refine ⟨_, run, ?offset, ?segment, ((only_setReg16 s g _).setSReg r _).advance len, advance_ip (by simp) len⟩
  case offset =>
    rw [reg16_advance, State.reg16_setSReg, State.reg16_setReg16, if_pos rfl]
    rfl
  case segment =>
    rw [State.advance, State.sreg_setIp, State.sreg_setSReg, if_pos rfl]
    rfl

/-- Settles O35: LDS and LES differ in the segment register alone. -/
theorem addressLoadResult : Obligations.AddressLoadResult := by
  intro g m r s off seg len
  refine ⟨⟨_, rfl, ?offset, (only_setReg16 s g _).advance _, advance_ip (State.setReg16_ip s g _) _⟩, loaded_far rfl,
    loaded_far rfl, rfl, rfl, rfl⟩
  case offset => rw [reg16_advance, State.reg16_setReg16, if_pos rfl]

end Sys2Proof.Machine
end

section
/-! The family 43_data_transfer.md: the stack and the flags (43_data_transfer.md R261 to R270; 20_memory.md R82;
10_state.md R27, R28). -/

namespace Sys2Proof.Machine

/-! ### PUSH and PUSHF -/

theorem Pushed.mono {s t : State} {good good' : Word → Prop} {len : Nat} (h : Pushed s t good len)
    (imp : ∀ v, good v → good' v) : Pushed s t good' len :=
  ⟨h.sp, imp _ h.value, h.frame, h.ip⟩

/-- The stack does not see what came before the push: flags, or a draw. -/
theorem Pushed.of_flagsOnly {s u t : State} {good : Word → Prop} {len : Nat} (h : Pushed u t good len)
    (before : FlagsOnly s u []) : Pushed s t good len := by
  have slot : u.stackAddress (u.reg16 .sp - 2) = s.stackAddress (s.reg16 .sp - 2) := by
    rw [before.reg16, State.stackAddress, before.seg2abs, State.stackAddress]
  obtain ⟨sp, value, frame, ip⟩ := h
  rw [slot] at value frame
  exact ⟨by rw [sp, before.reg16], value, (before.toOnly.sub (by simp) (by simp) (by simp) (by simp)).trans frame,
    by rw [ip, before.ip]⟩

/-- Settles O37: the pushes differ in the word, and each reads it before SP changes. -/
theorem pushResult : Obligations.PushResult := by
  intro r sr e s hi
  exact ⟨⟨_, rfl, push16_pushed s hi _ 1⟩, ⟨_, rfl, push16_pushed s hi _ 1⟩,
    ⟨_, rfl, (push16_pushed s hi (s.readE16 e) _).mono fun v hv => hv ▸ (read_dest16 s e).symm⟩⟩

/-! ### POP -/

theorem only_pop16 (s : State) : Only s s.pop16.2 [.sp] [] [] [] := only_setReg16 s .sp _

theorem popped16 {s : State} (hi : s.Inv) (e : RM16) {o : Outcome State} {len : Nat}
    (run : o = .next ((s.pop16.2.putPlace16 (s.place e) s.stackTop).advance len)) :
    ∃ t, o = .next t ∧ (s.dest16 e).read t = s.stackTop.toNat ∧ (e ≠ .reg .sp → t.reg16 .sp = s.reg16 .sp + 2) ∧
      Only s t (.sp :: (s.dest16 e).regs) [] [] (s.dest16 e).stored ∧ t.ip = s.ip + BitVec.ofNat 16 len := by
  have popped : s.pop16.2.Inv := hi.setReg16 .sp _
  have second := wrote_place16 (s := s) popped rfl rfl e s.stackTop len
  exact ⟨_, run, second.value.1, second.reg16_kept, second.frame_after (only_pop16 s), second.ip_after rfl⟩

/-- Settles O38: a pop moves SP and then writes its destination, which may be SP again. POP of a register is the pop
into a register operand. -/
theorem popResult : Obligations.PopResult := by
  intro r sr ign e s hi
  refine ⟨?register, ⟨_, rfl, ?segment, ?sp, ((only_pop16 s).setSReg sr _).advance 1, ?ip⟩, popped16 hi e rfl⟩
  case register =>
    obtain ⟨t, run, value, sp, frame, ip⟩ := popped16 (o := exec (.popReg r) s) hi (.reg r) rfl
    exact ⟨t, run, BitVec.eq_of_toNat_eq value, fun hr => sp (by simpa using hr),
      frame.sub (by simp [State.dest16, Dest.regs]) (by simp) (by simp) (fun _ => id), ip⟩
  case segment => exact (State.sreg_setSReg s.pop16.2 sr sr s.stackTop).trans (if_pos rfl)
  case sp => exact State.reg16_setSReg s.pop16.2 sr s.stackTop .sp
  case ip => exact advance_ip (State.setSReg_ip s.pop16.2 sr s.stackTop) 1

/-! ### POPF, LAHF, SAHF -/

/-- SAHF's update of the flags, as a frame. -/
theorem only_sahf (s : State) (b : Byte) :
    Only s (s.setFlags (s.flags.ofLowByte b)) [] [] [.cf, .pf, .af, .zf, .sf] [] := by
  refine only_setFlags s _ _ (fun x hx => ?_) ⟨rfl, rfl, rfl⟩
  cases x with
  | ofl => rfl
  | cf | pf | af | zf | sf => simp at hx

/-- Settles O39: a FLAGS image carries the nine named bits whatever its reserved ones are, and a load reads those bits
alone. -/
theorem flagTransferResult : Obligations.FlagTransferResult := by
  intro s hi
  have drawn := FlagsOnly.draw s []
  have image := image_carriesFlags s.flags (Config.freeWord s.draws)
  refine ⟨⟨_, rfl, ?pushf⟩, ⟨_, rfl, ?popf⟩, ?lahf, _, rfl, rfl, rfl, rfl, rfl, rfl, (only_sahf s _).advance 1, rfl⟩
  case pushf => exact ((push16_pushed _ (drawn.inv hi) _ 1).mono fun v hv => hv ▸ image).of_flagsOnly drawn
  case popf =>
    have moved := only_pop16 s
    exact ⟨carriesFlags_ofWord s.stackTop, rfl, fun r hr => moved.regs r (by simpa), fun r => moved.segs r (by simp),
      fun a => moved.bytes a (by simp), moved.system.trans ⟨rfl, rfl, rfl, rfl, rfl, rfl, rfl, rfl, rfl⟩, rfl⟩
  case lahf =>
    obtain ⟨t, run, ⟨ah, others⟩, frame, ip⟩ : ∃ t, exec .lahf s = .next t ∧
        Wrote s t (.reg8 .ah) (loByte s.flagsImage.1).toNat [] 1 := ⟨_, rfl, drawn.wrote_reg8 .ah _ 1⟩
    have loaded : t.reg8 .ah = loByte (s.flags.image (Config.freeWord s.draws)) := BitVec.eq_of_toNat_eq ah
    obtain ⟨cf, pf, af, zf, sf⟩ := carries_bit image
    rw [← loaded] at cf pf af zf sf
    exact ⟨t, run, cf, pf, af, zf, sf, others .al (by decide), frame, ip⟩

end Sys2Proof.Machine
end

section
/-! The family 44_string.md: the elements of the ten string instructions (44_string.md R290, R292 to R296) and their
repetition (R291). -/

namespace Sys2Proof.Machine

/-! ### A string instruction and its element -/

/-- `element` is the work of one turn of the string instruction `i`: the instruction runs it under `stringStep`'s
repetition, the repeat latch plays no part in it, and it leaves IP alone. -/
structure ElementOf (i : Instr) (compares : Bool) (element : State → State) : Prop where
  run    : ∀ s, exec i s = .next ((stringStep compares element s).advance 1)
  setRep : ∀ u k, element (u.setRep k) = (element u).setRep k
  ip     : ∀ u, (element u).ip = u.ip

theorem element_movsb : ElementOf .movsb false movsbElement := ⟨fun _ => rfl, fun _ _ => rfl, fun _ => rfl⟩
theorem element_movsw : ElementOf .movsw false movswElement := ⟨fun _ => rfl, fun _ _ => rfl, fun _ => rfl⟩
theorem element_cmpsb : ElementOf .cmpsb true cmpsbElement := ⟨fun _ => rfl, fun _ _ => rfl, fun _ => rfl⟩
theorem element_cmpsw : ElementOf .cmpsw true cmpswElement := ⟨fun _ => rfl, fun _ _ => rfl, fun _ => rfl⟩
theorem element_scasb : ElementOf .scasb true scasbElement := ⟨fun _ => rfl, fun _ _ => rfl, fun _ => rfl⟩
theorem element_scasw : ElementOf .scasw true scaswElement := ⟨fun _ => rfl, fun _ _ => rfl, fun _ => rfl⟩
theorem element_lodsb : ElementOf .lodsb false lodsbElement := ⟨fun _ => rfl, fun _ _ => rfl, fun _ => rfl⟩
theorem element_lodsw : ElementOf .lodsw false lodswElement := ⟨fun _ => rfl, fun _ _ => rfl, fun _ => rfl⟩
theorem element_stosb : ElementOf .stosb false stosbElement := ⟨fun _ => rfl, fun _ _ => rfl, fun _ => rfl⟩
theorem element_stosw : ElementOf .stosw false stoswElement := ⟨fun _ => rfl, fun _ _ => rfl, fun _ => rfl⟩

theorem exists_element_of_move :
    ∀ i ∈ [Instr.movsb, .movsw, .lodsb, .lodsw, .stosb, .stosw], ∃ element, ElementOf i false element := by
  simp only [List.forall_mem_cons]
  exact ⟨⟨_, element_movsb⟩, ⟨_, element_movsw⟩, ⟨_, element_lodsb⟩, ⟨_, element_lodsw⟩, ⟨_, element_stosb⟩,
    ⟨_, element_stosw⟩, by simp⟩

theorem exists_element_of_compare :
    ∀ i ∈ [Instr.cmpsb, .cmpsw, .scasb, .scasw], ∃ element, ElementOf i true element := by
  simp only [List.forall_mem_cons]
  exact ⟨⟨_, element_cmpsb⟩, ⟨_, element_cmpsw⟩, ⟨_, element_scasb⟩, ⟨_, element_scasw⟩, by simp⟩

section Element

variable {i : Instr} {compares : Bool} {element : State → State} {s : State}

theorem ElementOf.run_once (h : ElementOf i compares element) (latch : s.rep = none) :
    exec i s = .next ((element s).advance 1) := by
  rw [h.run, stringStep, latch]

theorem ElementOf.run_repeated (h : ElementOf i compares element) {k : RepKind} (latch : s.rep = some k) :
    exec i s = .next ((repeatElement compares k element (s.reg16 .cx).toNat s).advance 1) := by
  rw [h.run, stringStep, latch]

theorem ElementOf.rep (h : ElementOf i compares element) (u : State) : (element u).rep = u.rep := by
  have kept : element u = (element u).setRep u.rep := h.setRep u u.rep
  rw [kept, State.setRep_rep]

/-- A turn is the element and the count: setting the latch aside and putting IP back are not seen. -/
theorem ElementOf.repeatTurn_eq (h : ElementOf i compares element) :
    repeatTurn i = fun u => (element u).setReg16 .cx ((element u).reg16 .cx - 1) := by
  funext u
  have restored : ((((element u).setRep none).advance 1).setRep u.rep).setIp u.ip = element u := by
    rw [← h.rep u, ← h.ip u]
    rfl
  rw [repeatTurn, h.run_once rfl, h.setRep]
  exact congrArg (fun v => v.setReg16 .cx ((element u).reg16 .cx - 1)) restored

end Element

/-! ### Repetition (R291) -/

theorem repeatTurn_ip (i : Instr) (u : State) : (repeatTurn i u).ip = u.ip := by
  unfold repeatTurn
  split
  · exact State.setReg16_ip _ _ _
  · rfl
  · rfl

theorem iterate_repeatTurn_ip (i : Instr) (n : Nat) (s : State) : ((repeatTurn i)^[n] s).ip = s.ip := by
  induction n with
  | zero => rfl
  | succ n ih => rw [Function.iterate_succ_apply', repeatTurn_ip, ih]

/-- IP moves past the instruction once, after the last turn. -/
theorem advance_iterate_repeatTurn (i : Instr) (n : Nat) (s : State) :
    ((repeatTurn i)^[n] s).advance 1 = ((repeatTurn i)^[n] s).setIp (s.ip + 1) := by
  rw [State.advance, State.nextIp, iterate_repeatTurn_ip]
  rfl

theorem repStops_iff {k : RepKind} {u : State} : repStops k u = true ↔ u.flags.zf = decide (k = .repnz) := by
  cases k <;> simp [repStops]

theorem repeated_move {i : Instr} {element : State → State} (h : ElementOf i false element) {s : State} {k : RepKind}
    (latch : s.rep = some k) :
    exec i s = .next (((repeatTurn i)^[(s.reg16 .cx).toNat] s).setIp (s.ip + 1)) := by
  rw [h.run_repeated latch, repeatElement_false, ← h.repeatTurn_eq, advance_iterate_repeatTurn]

/-- Settles O50: a turn of the statement is a turn of the model's loop, whose count of turns is CX for the moves and
ends early at the first turn that stops a compare. -/
theorem repetitionIsIteratedElement : Obligations.RepetitionIsIteratedElement := by
  intro s k latch cx
  refine ⟨fun i hi => ?move, fun i hi => ?compare⟩
  case move =>
    obtain ⟨element, h⟩ := exists_element_of_move i hi
    exact repeated_move h latch
  case compare =>
    intro stops
    obtain ⟨element, h⟩ := exists_element_of_compare i hi
    obtain ⟨n, le, turns, running, ended⟩ := repeatElement_true k element cx s
    rw [← h.repeatTurn_eq] at turns running ended
    simp only [repStops_iff] at running ended
    exact ⟨n, le, by rw [h.run_repeated latch, turns, advance_iterate_repeatTurn], running, ended⟩

end Sys2Proof.Machine
end

section
/-! The family 44_string.md: one element of each string instruction (44_string.md R290, R292 to R296; 40_arithmetic.md
R141). -/

namespace Sys2Proof.Machine

/-! ### The index registers (R290) -/

section Indices

variable {s u : State} {rs : List Reg16} {fl : List StatusFlag} {st : List Nat}

/-- What has left DF and an index register as they were moves the register as the element size and DF of before say. -/
theorem moved_index (frame : Only s u rs [] fl st) {r : Reg16} (unwritten : r ∉ rs) (size : Word) :
    u.reg16 r + u.delta size = s.reg16 r + s.indexStep size := by
  rw [frame.regs r unwritten, delta_congr frame.control.2.2, delta_eq_indexStep]

theorem only_moved_index (frame : Only s u rs [] fl st) (r : Reg16) (size : Word) :
    Only s (u.setReg16 r (u.reg16 r + u.delta size)) (rs ++ [r]) [] fl st :=
  (frame.sub (fun _ => List.mem_append_left _) (by simp) (fun _ => id) (fun _ => id)).setReg16 (by simp) _

theorem stepped_di (frame : Only s u [] [] fl st) (ip : u.ip = s.ip) (size : Word) :
    let t := (u.stepDi size).advance 1
    t.reg16 .di = s.reg16 .di + s.indexStep size ∧ Only s t [.di] [] fl st ∧ t.ip = s.ip + 1 :=
  ⟨moved_index frame List.not_mem_nil size, (only_moved_index frame .di size).advance 1, advance_ip ip 1⟩

theorem stepped_si_di (frame : Only s u [] [] fl st) (ip : u.ip = s.ip) (size : Word) :
    let t := ((u.stepSi size).stepDi size).advance 1
    t.reg16 .si = s.reg16 .si + s.indexStep size ∧ t.reg16 .di = s.reg16 .di + s.indexStep size ∧
      Only s t [.si, .di] [] fl st ∧ t.ip = s.ip + 1 :=
  have source := only_moved_index frame .si size
  ⟨moved_index frame List.not_mem_nil size, moved_index source (by simp) size,
    (only_moved_index source .di size).advance 1, advance_ip ip 1⟩

theorem stepped_si (frame : Only s u [.ax] [] fl st) (ip : u.ip = s.ip) (size : Word) :
    let t := (u.stepSi size).advance 1
    t.reg16 .si = s.reg16 .si + s.indexStep size ∧ Only s t [.ax, .si] [] fl st ∧ t.ip = s.ip + 1 :=
  ⟨moved_index frame (by simp) size, (only_moved_index frame .si size).advance 1, advance_ip ip 1⟩

end Indices

/-! ### The elements -/

theorem State.memRead8_memWrite8_self (s : State) (a : Nat) (v : Byte) (wf : s.mem.wf = true) :
    (s.memWrite8 a v).memRead8 a = v := by
  rw [State.memRead8_memWrite8 s a a v wf, if_pos rfl]

/-- Settles O49: an element is a store, a load or a subtraction's flags, and then its index registers move; each value
is read where the moves of the indices leave it. -/
theorem stringElementResult : Obligations.StringElementResult := by
  intro s hi latch src dst si di
  have wf := hi.memory.1
  have storeByte (v : Byte) := only_memWrite8 s hi.memory dst v
  have storeWord (v : Word) := only_memWrite16 s hi.memory dst v
  have difference := subWith_spec s false
  refine ⟨?movsb, ?movsw, ?lodsb, ?lodsw, ?stosb, ?stosw, ?cmpsb, ?cmpsw, ?scasb, ?scasw⟩
  case movsb =>
    exact ⟨_, element_movsb.run_once latch, s.memRead8_memWrite8_self dst _ wf, stepped_si_di (storeByte _) rfl 1⟩
  case movsw =>
    exact ⟨_, element_movsw.run_once latch, s.memRead16_memWrite16 dst _ wf hi.two, stepped_si_di (storeWord _) rfl 2⟩
  case lodsb =>
    exact ⟨_, element_lodsb.run_once latch, s.reg8_setReg8 .al .al _, s.reg8_setReg8 .al .ah _,
      stepped_si (only_setReg8 s .al _) rfl 1⟩
  case lodsw => exact ⟨_, element_lodsw.run_once latch, rfl, stepped_si (only_setReg16 s .ax (s.memRead16 src)) rfl 2⟩
  case stosb =>
    exact ⟨_, element_stosb.run_once latch, s.memRead8_memWrite8_self dst _ wf, stepped_di (storeByte _) rfl 1⟩
  case stosw =>
    exact ⟨_, element_stosw.run_once latch, s.memRead16_memWrite16 dst _ wf hi.two, stepped_di (storeWord _) rfl 2⟩
  case cmpsb =>
    obtain ⟨only, -, flags⟩ := difference 8 (.inl rfl) (s.memRead8 src) (s.memRead8 dst)
    exact ⟨_, element_cmpsb.run_once latch, flags, stepped_si_di only.toOnly only.ip 1⟩
  case cmpsw =>
    obtain ⟨only, -, flags⟩ := difference 16 (.inr rfl) (s.memRead16 src) (s.memRead16 dst)
    exact ⟨_, element_cmpsw.run_once latch, flags, stepped_si_di only.toOnly only.ip 2⟩
  case scasb =>
    obtain ⟨only, -, flags⟩ := difference 8 (.inl rfl) (s.reg8 .al) (s.memRead8 dst)
    exact ⟨_, element_scasb.run_once latch, flags, stepped_di only.toOnly only.ip 1⟩
  case scasw =>
    obtain ⟨only, -, flags⟩ := difference 16 (.inr rfl) (s.reg16 .ax) (s.memRead16 dst)
    exact ⟨_, element_scasw.run_once latch, flags, stepped_di only.toOnly only.ip 2⟩

end Sys2Proof.Machine
end

section
/-! The family 44_string.md: REP STOSB fills (44_string.md R290, R291, R296). -/

namespace Sys2Proof.Machine

theorem State.Inv.memWrite8 {s : State} (hi : s.Inv) (a : Nat) (v : Byte) : (s.memWrite8 a v).Inv :=
  State.Inv.of_same_clock hi rfl
    ⟨State.memWrite8_wf s a v hi.memory.1, State.memWrite8_below s a v hi.memory.2 (Nat.lt_of_succ_lt hi.two)⟩ rfl rfl

/-- The linear address of the byte that turn `j` stores, `j` counted from 0. -/
def State.fillAddress (s : State) (j : Nat) : Nat :=
  s.seg2abs .es (s.reg16 .di + BitVec.ofNat 16 j * s.indexStep 1)

/-- `u` is what `n` turns of REP STOSB make of `s`. -/
structure Filled (s : State) (n : Nat) (u : State) : Prop where
  inv   : u.Inv
  al    : ∀ j, j < n → u.memRead8 (s.fillAddress j) = s.reg8 .al
  cx    : u.reg16 .cx = s.reg16 .cx - BitVec.ofNat 16 n
  di    : u.reg16 .di = s.reg16 .di + BitVec.ofNat 16 n * s.indexStep 1
  flags : u.flags = s.flags
  frame : Only s u [.cx, .di] [] [] ((List.range n).map s.fillAddress)

theorem filled_zero {s : State} (hi : s.Inv) : Filled s 0 s where
  inv := hi
  al j hj := absurd hj j.not_lt_zero
  cx := by simp
  di := by simp
  flags := rfl
  frame := .refl s _ _ _ _

namespace Filled

variable {s u : State} {n : Nat}

theorem storeAddress_eq (h : Filled s n u) : u.seg2abs .es (u.reg16 .di) = s.fillAddress n := by
  rw [h.di, State.fillAddress]
  exact State.seg2abs_congr (sregs_ext fun r => h.frame.segs r List.not_mem_nil) h.frame.system.ovr .es _

theorem reg8_al (h : Filled s n u) : u.reg8 .al = s.reg8 .al := by
  rw [State.reg8_low u .al rfl, State.reg8_low s .al rfl, h.frame.regs _ (by decide)]

/-- A turn stores AL at the next address, moves DI and counts CX down. -/
theorem repeatTurn_eq (h : Filled s n u) :
    repeatTurn .stosb u = ((u.memWrite8 (s.fillAddress n) (s.reg8 .al)).setReg16 .di
      (s.reg16 .di + BitVec.ofNat 16 (n + 1) * s.indexStep 1)).setReg16 .cx
        (s.reg16 .cx - BitVec.ofNat 16 (n + 1)) := by
  have cx : u.reg16 .cx - 1 = s.reg16 .cx - BitVec.ofNat 16 (n + 1) := by
    rw [h.cx, BitVec.ofNat_add, BitVec.sub_sub]
    rfl
  have di : u.reg16 .di + u.delta 1 = s.reg16 .di + BitVec.ofNat 16 (n + 1) * s.indexStep 1 := by
    rw [h.di, delta_congr h.frame.control.2.2, delta_eq_indexStep, BitVec.ofNat_add, BitVec.add_mul, BitVec.one_mul,
      BitVec.add_assoc]
  rw [element_stosb.repeatTurn_eq, ← cx, ← di, ← h.storeAddress_eq, ← h.reg8_al]
  rfl

theorem succ (h : Filled s n u) : Filled s (n + 1) (repeatTurn .stosb u) := by
  rw [h.repeatTurn_eq]
  refine ⟨((h.inv.memWrite8 _ _).setReg16 _ _).setReg16 _ _, fun j hj => ?al, rfl, rfl, h.flags, ?frame⟩
  case al =>
    refine (State.memRead8_memWrite8 u _ _ _ h.inv.memory.1).trans ?_
    split_ifs with same
    · rfl
    · exact h.al j (lt_of_le_of_ne (Nat.le_of_lt_succ hj) fun last => same (by rw [last]))
  case frame =>
    have before := h.frame.sub (fun _ => id) (fun _ => id) (fun _ => id)
      fun _ => List.mem_append_left [s.fillAddress n]
    have store := only_memWrite8 u h.inv.memory (s.fillAddress n) (s.reg8 .al)
    rw [List.range_succ, List.map_append]
    exact ((before.trans (store.sub (by simp) (by simp) (by simp) fun _ => List.mem_append_right _)).setReg16
      (by simp) _).setReg16 (by simp) _

end Filled

theorem filled_iterate {s : State} (hi : s.Inv) (n : Nat) : Filled s n ((repeatTurn .stosb)^[n] s) := by
  induction n with
  | zero => exact filled_zero hi
  | succ n ih => rw [Function.iterate_succ_apply']; exact ih.succ

/-- Settles O51: by induction on the turns, each of which fills one byte more and keeps the rest; where the bytes wrap
around MEM_SIZE a later turn stores AL over AL. -/
theorem repeatedStoreFills : Obligations.RepeatedStoreFills := by
  intro s k hi latch cx at_
  obtain ⟨-, al, count, index, flags, filled⟩ := filled_iterate hi cx
  rw [BitVec.ofNat_toNat, BitVec.setWidth_eq] at count index
  have frame := filled.setIp (s.ip + 1)
  refine ⟨_, repeated_move element_stosb latch, al, fun a apart => frame.bytes a ?others, ?cx, ?di, frame.regs,
    flags, rfl⟩
  case others =>
    intro b hb
    obtain ⟨j, hj, rfl⟩ := List.mem_map.1 hb
    exact apart j (List.mem_range.1 hj)
  case cx => rw [State.reg16_setIp, count, BitVec.sub_self]; rfl
  case di => rw [State.reg16_setIp, index]

end Sys2Proof.Machine
end

section
/-! The family 45_prefix_flag_io_misc.md: what the prefixes, flag control, NOP, WAIT, ESC and HLT do (R310 to
R312, R314 to R324), and the latches after a step (R313). -/

namespace Sys2Proof.Machine

/-! ### One instruction -/

/-- The segment prefixes and the register each overrides with (R310). -/
def segmentPrefixes : List (Instr × SReg) := [(.segEs, .es), (.segCs, .cs), (.segSs, .ss), (.segDs, .ds)]

/-- The repeat prefixes and the kind each latches (R311). -/
def repeatPrefixes : List (Instr × RepKind) := [(.repz, .repz), (.repnz, .repnz)]

theorem exec_segmentPrefix (s : State) : ∀ c ∈ segmentPrefixes, exec c.1 s = .next (s.setOverride c.2) := by
  simp only [segmentPrefixes, List.forall_mem_cons]
  exact ⟨rfl, rfl, rfl, rfl, List.forall_mem_nil _⟩

theorem exec_repeatPrefix (s : State) :
    ∀ c ∈ repeatPrefixes, exec c.1 s = .next ((s.setRep (some c.2)).advance 1) := by
  simp only [repeatPrefixes, List.forall_mem_cons]
  exact ⟨rfl, rfl, List.forall_mem_nil _⟩

theorem exec_lock (s : State) : exec .lock s = .next (s.advance 1) := rfl

/-- Settles O52: the length of each is 1, so that IP advances by 1. -/
theorem prefixInstructionsSetLatches : Obligations.PrefixInstructionsSetLatches :=
  fun s => ⟨exec_segmentPrefix s, exec_repeatPrefix s, exec_lock s⟩

/-- Settles O53: each is one write of the state, or none, and an advance by its length. -/
theorem flagControlAndNopResult : Obligations.FlagControlAndNopResult := by
  intro op ign e s
  exact ⟨rfl, rfl, rfl, rfl, rfl, rfl, rfl, rfl, rfl, rfl, rfl⟩

/-! ### The end of a step -/

theorem isPrefix_iff (i : Instr) :
    i.isPrefix = true ↔ i ∈ [Instr.segEs, .segCs, .segSs, .segDs, .repz, .repnz, .lock] := by
  simp [Instr.isPrefix, or_assoc]

theorem isPrefix_of_mem_segmentPrefixes : ∀ c ∈ segmentPrefixes, c.1.isPrefix = true := by decide

theorem isPrefix_of_mem_repeatPrefixes : ∀ c ∈ repeatPrefixes, c.1.isPrefix = true := by decide

/-- A step that completes ran the meaning of the instruction decoded, to a state the end of the cycle then finished. -/
theorem exec_of_step {s t : State} {i : Instr} {rest : List Byte} (running : s.halted = false)
    (decoded : decode s.fetchWindow = .ok (i, rest)) (ran : step s = .next t) :
    ∃ u, exec i s.recordDecode = .next u ∧ t = finishStep i u := by
  simp only [step, running, decoded, Bool.false_eq_true, if_false] at ran
  cases run : exec i s.recordDecode with
  | next u => rw [run] at ran; exact ⟨u, rfl, (Host.Outcome.next.inj ran).symm⟩
  | fault f => rw [run] at ran; cases ran
  | refused r => rw [run] at ran; cases ran

theorem finishStep_of_isPrefix {i : Instr} (h : i.isPrefix = true) (u : State) :
    (finishStep i u).ovr = u.ovr ∧ (finishStep i u).rep = u.rep := by
  rw [finishStep, if_pos h]
  exact ⟨(DeviceOnly.endCycle u).ovr, (DeviceOnly.endCycle u).rep⟩

theorem finishStep_of_not_isPrefix {i : Instr} (h : ¬ i.isPrefix = true) (u : State) :
    (finishStep i u).ovr = none ∧ (finishStep i u).rep = none := by
  rw [finishStep, if_neg h]
  exact ⟨(DeviceOnly.endCycle u.clearLatches).ovr, (DeviceOnly.endCycle u.clearLatches).rep⟩

/-- Settles O8: the end of a cycle reaches no latch, so the latches after one of the seven prefixes are those its
meaning sets, and after any other those that `clearLatches` leaves. -/
theorem latchesAfterStep : Obligations.LatchesAfterStep := by
  intro s t i rest running decoded ran
  obtain ⟨u, run, rfl⟩ := exec_of_step running decoded ran
  have other (h : i ∉ [Instr.segEs, .segCs, .segSs, .segDs, .repz, .repnz, .lock]) :=
    finishStep_of_not_isPrefix (mt (isPrefix_iff i).1 h) u
  have kept {v : State} (prefixed : i.isPrefix = true) (meaning : exec i s.recordDecode = .next v) :
      (finishStep i u).ovr = v.ovr ∧ (finishStep i u).rep = v.rep := by
    cases run.symm.trans meaning
    exact finishStep_of_isPrefix prefixed u
  have segment (c) (hc : c ∈ segmentPrefixes) (h : i = c.1) :
      (finishStep i u).ovr = some c.2 ∧ (finishStep i u).rep = s.rep := by
    subst h
    exact kept (isPrefix_of_mem_segmentPrefixes c hc) (exec_segmentPrefix _ c hc)
  have repetition (c) (hc : c ∈ repeatPrefixes) (h : i = c.1) :
      (finishStep i u).rep = some c.2 ∧ (finishStep i u).ovr = s.ovr := by
    subst h
    exact (kept (isPrefix_of_mem_repeatPrefixes c hc) (exec_repeatPrefix _ c hc)).symm
  refine ⟨other, segment (.segEs, .es) ?_, segment (.segCs, .cs) ?_, segment (.segSs, .ss) ?_,
    segment (.segDs, .ds) ?_, repetition (.repz, .repz) ?_, repetition (.repnz, .repnz) ?_, ?lock⟩
  case lock => rintro rfl; exact kept (v := s.recordDecode.advance 1) rfl (exec_lock _)
  all_goals decide

end Sys2Proof.Machine
end

section
/-! The family 60_exceptions.md: a step as the meaning of what it decodes and the end of its cycle (60_exceptions.md
R350, R353 to R356, R370, R388, R389). -/

namespace Sys2Proof.Machine

/-! ### The outcomes of a meaning -/

/-- Settles O15: the two meanings are that refusal. -/
theorem unimplementedIsRefused : Obligations.UnimplementedIsRefused := fun _ _ _ => ⟨rfl, rfl⟩

theorem input_ne_refused (s : State) (w : Width) (port : Word) (len : Nat) (r : Refusal) :
    s.input w port len ≠ .refused r := by
  cases w <;> rw [State.input] <;> split <;> nofun

/-- The only refusal of a meaning is that of an unimplemented encoding: every other branch answers a next state or a
fault. -/
theorem refusal_of_exec {i : Instr} {s : State} {r : Refusal} (h : exec i s = .refused r) :
    ∃ op, r = .notImplemented op := by
  cases i with
  | unimplOp op => cases h; exact ⟨op, rfl⟩
  | unimplGroup op => cases h; exact ⟨op, rfl⟩
  | inImm | inDx => exact absurd h (input_ne_refused s _ _ _ r)
  | lea _ e | lds _ e | les _ e | jmpFarMem e | callFarMem e => cases e <;> cases h
  | movFromSeg _ sw | movToSeg sw =>
    simp only [exec, execMovFromSeg, execMovToSeg] at h
    split at h <;> cases h
  | div g | idiv g => cases g <;> simp only [exec, execDiv, execIdiv] at h <;> split at h <;> cases h
  | aaa | aas | aam | into =>
    simp only [exec, execAaa, execAas, execAam, execInto] at h
    split at h <;> cases h
  | mov g | movImm g | movRegImm g | movMoffs g | xchg g | mul g | imul g | jmpRel g => cases g <;> cases h
  | _ => cases h

theorem fault_of_exec {i : Instr} {s : State} {f : Fault} (h : exec i s = .fault f) :
    f = .addressingNotImplemented ∨ f = .devicePortError := by
  cases haddr : i.noAddressing with
  | true => exact .inl (Host.Outcome.fault.inj (h.symm.trans (exec_of_noAddressing haddr s)))
  | false =>
    cases hport : i.inPort s with
    | some port => exact .inr ((exec_eq_fault_of_inPort hport f).1 h).1
    | none => exact absurd h (exec_ne_fault haddr hport f)

/-! ### A step -/

/-- The fetched bytes are as many as the longest instruction has, so a core that runs always decodes one. -/
theorem decode_fetchWindow (s : State) : ∃ i rest, decode s.fetchWindow = .ok (i, rest) :=
  (decodeIsTotalWithLength s.fetchWindow).1 (by simp [State.fetchWindow, maxLen])

/-- A step of a running core, by the outcome of the meaning of what was decoded. -/
theorem step_of_decode {s : State} {i : Instr} {rest : List Byte} (running : s.halted = false)
    (decoded : decode s.fetchWindow = .ok (i, rest)) :
    step s = match exec i s.recordDecode with
      | .next t => .next (finishStep i t)
      | .fault f => .fault f
      | .refused r => .refused r := by
  cases run : exec i s.recordDecode <;> simp [step, running, decoded, run]

/-- A step that answers a state is the end of a cycle of a halted core, or that after an instruction's meaning. -/
theorem next_of_step {s t : State} (h : step s = .next t) :
    t = s.endCycle ∨ ∃ i u, exec i s.recordDecode = .next u ∧ t = finishStep i u := by
  cases halted : s.halted with
  | true => exact .inl (Host.Outcome.next.inj (h.symm.trans (step_of_halted halted)))
  | false =>
    obtain ⟨i, rest, decoded⟩ := decode_fetchWindow s
    exact .inr ⟨i, exec_of_step halted decoded h⟩

/-- Settles O13: a running core always decodes an instruction, and the meaning's outcome is that of the step. -/
theorem stepOutcomes : Obligations.StepOutcomes := by
  intro s
  cases halted : s.halted with
  | true => exact .inl ⟨_, step_of_halted halted⟩
  | false =>
    obtain ⟨i, rest, decoded⟩ := decode_fetchWindow s
    rw [step_of_decode halted decoded]
    cases run : exec i s.recordDecode with
    | next u => exact .inl ⟨_, rfl⟩
    | fault f =>
      obtain rfl | rfl := fault_of_exec run
      · exact .inr (.inl rfl)
      · exact .inr (.inr (.inl rfl))
    | refused r =>
      obtain ⟨op, rfl⟩ := refusal_of_exec run
      exact .inr (.inr (.inr ⟨op, rfl⟩))

/-- The fetched bytes begin with an instruction whose bytes stand at CS:IP, each at its own wrapped offset. -/
theorem fetchWindow_begins {s : State} {bytes : List Byte} (short : bytes.length ≤ maxLen)
    (stored : ∀ k b, bytes[k]? = some b → s.fetch8 k = b) : bytes <+: s.fetchWindow := by
  rw [List.prefix_iff_getElem?]
  intro k hk
  have fetched : s.fetch8 k = bytes[k] := stored k _ (List.getElem?_eq_getElem hk)
  simp [State.fetchWindow, hk.trans_le short, fetched]

/-- Settles O6: the bytes fetched begin with the instruction's, so by O1 the decoder reads that instruction. -/
theorem stepRunsDecodedInstruction : Obligations.StepRunsDecodedInstruction := by
  intro s i running wf stored
  obtain ⟨length, short⟩ := encodedLength i
  obtain ⟨rest, window⟩ := fetchWindow_begins (length.trans_le short) stored
  exact step_of_decode running (window ▸ decodeInvertsEncode i rest wf)

/-! ### What a step keeps of the clock (R388, R389) -/

theorem tick2_wall (s : State) : s.wallNS ≤ (tick2 s).wallNS := by
  unfold tick2
  split
  · exact (ClockKept.now (tick1 s)).wall
  · exact le_refl _

theorem endCycle_wall (s : State) : s.wallNS ≤ s.endCycle.wallNS := by
  have ticked : (tick2 s).wallNS ≤ s.tick.wallNS := by
    rw [tick_eq]
    split
    · exact (ClockKept.checkTimers _).wall
    · exact le_refl _
  exact (tick2_wall s).trans (ticked.trans (ClockKept.serviceDevices _).wall)

/-- What a meaning leaves of configuration, clock and host's time: the device side alone may move the latter two, and it
keeps their invariant. -/
theorem exec_clock {i : Instr} {s t : State} (h : exec i s = .next t) :
    t.cfg = s.cfg ∧ t.clock.cycles = s.clock.cycles ∧ s.wallNS ≤ t.wallNS ∧ (s.clockOk → t.clockOk) := by
  obtain ⟨cfg, -, -, cycles, -, kept⟩ := onlyPortsReachDevices i s t h
  cases hports : i.usesPorts with
  | false =>
    obtain ⟨-, clock, wall⟩ := kept hports
    exact ⟨cfg, cycles, wall.ge, by simp only [State.clockOk, clock, wall, imp_self]⟩
  | true =>
    obtain ⟨u, ⟨access, -⟩, same⟩ := exec_portAccess hports h
    simp only [State.outside, Outside.mk.injEq] at same
    obtain ⟨-, -, clock, -, -, -, wall⟩ := same
    exact ⟨cfg, cycles, access.wall.trans wall.ge, by simpa only [State.clockOk, clock, wall] using access.clk⟩

/-- The end of a step is the end of a cycle in a state that differs from the meaning's at most in the latches. -/
theorem finishStep_eq (i : Instr) (u : State) :
    ∃ ovr rep, finishStep i u = ((u.setOvr ovr).setRep rep).endCycle := by
  unfold finishStep
  split
  · exact ⟨u.ovr, u.rep, rfl⟩
  · exact ⟨none, none, rfl⟩

/-- Settles O12: a meaning counts no cycle and the end of the cycle counts one; neither writes the configuration or
turns the host's clock back. -/
theorem everyStepTicksOnce : Obligations.EveryStepTicksOnce := by
  intro s t h
  have ends (u : State) : u.endCycle.clock.cycles = u.clock.cycles + 1 ∧ u.endCycle.cfg = u.cfg ∧
      u.wallNS ≤ u.endCycle.wallNS :=
    ⟨endCycle_cycles u, (DeviceOnly.endCycle u).cfg, endCycle_wall u⟩
  obtain rfl | ⟨i, u, run, rfl⟩ := next_of_step h
  · exact ends s
  · obtain ⟨cfg, cycles, wall, -⟩ := exec_clock run
    obtain ⟨ovr, rep, last⟩ := finishStep_eq i u
    obtain ⟨endCycles, endCfg, endWall⟩ := ends ((u.setOvr ovr).setRep rep)
    rw [last]
    exact ⟨endCycles.trans (congrArg (· + 1) cycles), endCfg.trans cfg, wall.trans endWall⟩

end Sys2Proof.Machine
end

section
/-! The family 60_exceptions.md: every step keeps the invariant of a constructed block (60_exceptions.md R352, R384,
R388, R389; 10_state.md R43). The clock's part is kept by `exec_clock`; here memory's, which every write keeps. -/

namespace Sys2Proof.Machine

/-- A good memory under a memory size that is not 0: what every write to memory keeps. -/
def State.memSound (s : State) : Prop := 0 < s.cfg.memSize ∧ s.memOk

theorem memSound_congr {s t : State} (cfg : t.cfg = s.cfg) (mem : t.mem = s.mem) : t.memSound ↔ s.memSound := by
  simp only [State.memSound, State.memOk, cfg, mem]

theorem DeviceOnly.memSound_iff {s t : State} (h : DeviceOnly s t) : t.memSound ↔ s.memSound :=
  memSound_congr h.cfg h.mem

theorem State.Inv.memSound {s : State} (hi : s.Inv) : s.memSound := ⟨Nat.lt_of_succ_lt hi.two, hi.memory⟩

/-! ### The state's own updates -/

section Updates

variable (s : State)

@[simp] theorem memSound_setReg16 (r : Reg16) (v : Word) : (s.setReg16 r v).memSound ↔ s.memSound :=
  memSound_congr (by simp) (by simp)
@[simp] theorem memSound_setReg8 (r : Reg8) (v : Byte) : (s.setReg8 r v).memSound ↔ s.memSound :=
  memSound_congr (by simp) (by simp)
@[simp] theorem memSound_setSReg (r : SReg) (v : Word) : (s.setSReg r v).memSound ↔ s.memSound :=
  memSound_congr (by simp) (by simp)
@[simp] theorem memSound_setIp (v : Word) : (s.setIp v).memSound ↔ s.memSound := .rfl
@[simp] theorem memSound_advance (len : Nat) : (s.advance len).memSound ↔ s.memSound := .rfl
@[simp] theorem memSound_setFlags (f : Flags) : (s.setFlags f).memSound ↔ s.memSound := .rfl
@[simp] theorem memSound_setOvr (o : Option SReg) : (s.setOvr o).memSound ↔ s.memSound := .rfl
@[simp] theorem memSound_setRep (k : Option RepKind) : (s.setRep k).memSound ↔ s.memSound := .rfl
@[simp] theorem memSound_setHalted (b : Bool) : (s.setHalted b).memSound ↔ s.memSound := .rfl
@[simp] theorem memSound_setDraws (n : Nat) : (s.setDraws n).memSound ↔ s.memSound := .rfl
@[simp] theorem memSound_setLastDecode (d : Option DecodeRecord) : (s.setLastDecode d).memSound ↔ s.memSound := .rfl
@[simp] theorem memSound_pop16 : s.pop16.2.memSound ↔ s.memSound := memSound_setReg16 s _ _
@[simp] theorem memSound_flagsImage : s.flagsImage.2.memSound ↔ s.memSound := .rfl
@[simp] theorem memSound_freeFlags (xs : List StatusFlag) : (s.freeFlags xs).memSound ↔ s.memSound :=
  memSound_congr (FlagsOnly.freeFlags s xs).system.cfg (FlagsOnly.freeFlags s xs).mem

variable {s} (h : s.memSound)

include h

/-! ### Writes to memory, the stack, traps -/

@[simp] theorem memSound_memWrite8 (a : Nat) (v : Byte) : (s.memWrite8 a v).memSound :=
  ⟨h.1, State.memWrite8_wf s a v h.2.1, State.memWrite8_below s a v h.2.2 h.1⟩

@[simp] theorem memSound_memWrite16 (a : Nat) (v : Word) : (s.memWrite16 a v).memSound :=
  ⟨h.1, State.memWrite16_wf s a v h.2.1, State.memWrite16_below s a v h.2.2 h.1⟩

@[simp] theorem memSound_putPlace8 (p : Place Reg8) (v : Byte) : (s.putPlace8 p v).memSound := by
  cases p <;> simp [State.putPlace8, h]

@[simp] theorem memSound_putPlace16 (p : Place Reg16) (v : Word) : (s.putPlace16 p v).memSound := by
  cases p <;> simp [State.putPlace16, h]

@[simp] theorem memSound_writeE8 (e : RM8) (v : Byte) : (s.writeE8 e v).memSound := memSound_putPlace8 h _ v

@[simp] theorem memSound_writeE16 (e : RM16) (v : Word) : (s.writeE16 e v).memSound := memSound_putPlace16 h _ v

@[simp] theorem memSound_push16 (v : Word) : (s.push16 v).memSound := by simp [push16_eq, h]

@[simp] theorem memSound_trap (n : Byte) (ret : Word) : (s.trap n ret).memSound := by
  simp only [State.trap, memSound_setSReg, memSound_setIp]
  refine memSound_push16 (memSound_push16 ?_ _) _
  rw [memSound_setFlags]
  exact memSound_push16 ((memSound_flagsImage s).2 h) _

end Updates

/-! ### The shared shapes of the instruction families -/

/-! The operations write no memory; what they are applied to may. -/

theorem memSound_addWith (c : Bool) (n : Nat) (a b : BitVec n) (s : State) :
    (addWith c n a b s).2.memSound ↔ s.memSound := .rfl
theorem memSound_subWith (c : Bool) (n : Nat) (a b : BitVec n) (s : State) :
    (subWith c n a b s).2.memSound ↔ s.memSound := .rfl
theorem memSound_logicResult {n : Nat} (r : BitVec n) (s : State) : (s.logicResult r).2.memSound ↔ s.memSound :=
  memSound_freeFlags _ _
theorem memSound_andOp (n : Nat) (a b : BitVec n) (s : State) : (andOp n a b s).2.memSound ↔ s.memSound :=
  memSound_logicResult _ s
theorem memSound_orOp (n : Nat) (a b : BitVec n) (s : State) : (orOp n a b s).2.memSound ↔ s.memSound :=
  memSound_logicResult _ s
theorem memSound_xorOp (n : Nat) (a b : BitVec n) (s : State) : (xorOp n a b s).2.memSound ↔ s.memSound :=
  memSound_logicResult _ s

section Shapes

variable {s : State} (h : s.memSound)

include h

theorem memSound_applyAlu {op : AluOp} (hop : ∀ n a b u, (op n a b u).2.memSound ↔ u.memSound) (f : AluForm) :
    (applyAlu op f s).memSound := by
  cases f <;> simp [applyAlu, hop, h]

theorem memSound_compareAlu {op : AluOp} (hop : ∀ n a b u, (op n a b u).2.memSound ↔ u.memSound) (f : AluForm) :
    (compareAlu op f s).memSound := by
  cases f <;> simp [compareAlu, hop, h]

theorem memSound_applyIncDec {op : UnaryOp} (hop : ∀ n a u, (op n a u).2.memSound ↔ u.memSound) (f : IncForm) :
    (applyIncDec op f s).memSound := by
  cases f <;> simp [applyIncDec, hop, h]

theorem memSound_applyUnary {op : UnaryOp} (hop : ∀ n a u, (op n a u).2.memSound ↔ u.memSound) (f : UnForm) :
    (applyUnary op f s).memSound := by
  cases f <;> simp [applyUnary, hop, h]

theorem memSound_applyTest (f : TestForm) : (applyTest f s).memSound := by
  cases f <;> exact (memSound_logicResult _ s).2 h

theorem memSound_shiftFlags (op : ShiftOp) {n : Nat} (cnt : Nat) (v0 v : BitVec n) (cf : Bool) :
    (s.shiftFlags op cnt v0 v cf).memSound := by
  unfold State.shiftFlags
  split_ifs <;> simp [h]

theorem memSound_applyShift8 (op : ShiftOp) (e : RM8) (cnt : Nat) : (applyShift8 op e cnt s).memSound := by
  unfold applyShift8
  split_ifs
  · exact h
  · exact memSound_shiftFlags (memSound_writeE8 h e _) op _ _ _ _

theorem memSound_applyShift16 (op : ShiftOp) (e : RM16) (cnt : Nat) : (applyShift16 op e cnt s).memSound := by
  unfold applyShift16
  split_ifs
  · exact h
  · exact memSound_shiftFlags (memSound_writeE16 h e _) op _ _ _ _

theorem memSound_applyShift (op : ShiftOp) (f : ShiftForm) : (applyShift op f s).memSound := by
  cases f with
  | eb1 e | ebCl e => exact memSound_applyShift8 h op e _
  | ev1 e | evCl e => exact memSound_applyShift16 h op e _

theorem memSound_jumpIf (taken : Bool) (rel : Byte) : (s.jumpIf taken rel).memSound := by cases taken <;> exact h

/-! A repetition keeps what each of its elements keeps. -/

theorem memSound_repeatElement {element : State → State} (helem : ∀ u, u.memSound → (element u).memSound)
    (compares : Bool) (k : RepKind) (n : Nat) : (repeatElement compares k element n s).memSound := by
  induction n generalizing s with
  | zero => exact h
  | succ n ih =>
    have turn : ((element s).setReg16 .cx ((element s).reg16 .cx - 1)).memSound :=
      (memSound_setReg16 _ _ _).2 (helem s h)
    rw [repeatElement]
    split_ifs
    · exact turn
    · exact ih turn

theorem memSound_stringStep {element : State → State} (helem : ∀ u, u.memSound → (element u).memSound)
    (compares : Bool) : (stringStep compares element s).memSound := by
  rw [stringStep]
  split
  · exact helem s h
  · exact memSound_repeatElement h helem _ _ _

end Shapes

/-! ### The instructions -/

/-- The outcome, if it is a next state, has a good memory. -/
def AnswersSound (o : Outcome State) : Prop := ∀ t, o = .next t → t.memSound

@[simp] theorem answersSound_next {u : State} : AnswersSound (.next u) ↔ u.memSound := by simp [AnswersSound]

@[simp] theorem answersSound_fault (f : Fault) : AnswersSound (.fault f) := by simp [AnswersSound]

@[simp] theorem answersSound_refused (r : Refusal) : AnswersSound (.refused r) := by simp [AnswersSound]

theorem input_answersSound {s : State} (h : s.memSound) (w : Width) (port : Word) (len : Nat) :
    AnswersSound (s.input w port len) := by
  intro t run
  cases w with
  | byte =>
    simp only [State.input] at run
    split at run
    · cases run
    next v u read => cases run; simpa using (PortAccess.portRead8 read).clock.dev.memSound_iff.2 h
  | word =>
    simp only [State.input] at run
    split at run
    · cases run
    next v u read => cases run; simpa using (PortAccess.portRead16 read).clock.dev.memSound_iff.2 h

theorem output_memSound {s : State} (h : s.memSound) (w : Width) (port : Word) (len : Nat) :
    (s.output w port len).memSound := by
  cases w <;> exact (DeviceOnly.portWrite8 s port _).memSound_iff.2 h

/-- By families: each meaning composes updates and shared shapes that keep a good memory. -/
theorem exec_answersSound {s : State} (h : s.memSound) (i : Instr) : AnswersSound (exec i s) := by
  cases i with
  | add f | adc f => exact answersSound_next.2 (memSound_applyAlu h (memSound_addWith _) f)
  | sub f | sbb f => exact answersSound_next.2 (memSound_applyAlu h (memSound_subWith _) f)
  | and f => exact answersSound_next.2 (memSound_applyAlu h memSound_andOp f)
  | or f => exact answersSound_next.2 (memSound_applyAlu h memSound_orOp f)
  | xor f => exact answersSound_next.2 (memSound_applyAlu h memSound_xorOp f)
  | cmp f => exact answersSound_next.2 (memSound_compareAlu h (memSound_subWith _) f)
  | test f => exact answersSound_next.2 (memSound_applyTest h f)
  | inc f => exact answersSound_next.2 (memSound_applyIncDec h (fun n a => memSound_addWith false n a 1) f)
  | dec f => exact answersSound_next.2 (memSound_applyIncDec h (fun n a => memSound_subWith false n a 1) f)
  | neg f => exact answersSound_next.2 (memSound_applyUnary h (fun n b => memSound_subWith false n 0 b) f)
  | not f => exact answersSound_next.2 (memSound_applyUnary h (fun _ _ _ => .rfl) f)
  | mul f | imul f => cases f <;> simp [exec, execMul, execImul, State.multiplyFlags, State.setDxAx, h]
  | div f | idiv f =>
    cases f <;> simp only [exec, execDiv, execIdiv, State.divideFlags] <;> split_ifs <;> simp [h]
  | daa | das => simp [exec, execDaa, execDas, State.decimalResult, h]
  | aaa | aas => simp only [exec, execAaa, execAas, State.asciiResult]; split_ifs <;> simp [h]
  | aam => simp only [exec, execAam]; split_ifs <;> simp [h]
  | aad | cbw | cwd => simp [exec, execAad, execCbw, execCwd, h]
  | rol f | ror f | rcl f | rcr f | shl f | shr f | sar f => exact answersSound_next.2 (memSound_applyShift h _ f)
  | mov f | movImm f | movRegImm f | movMoffs f | xchg f =>
    cases f <;> simp [exec, execMov, execMovImm, execMovRegImm, execMovMoffs, execXchg, h]
  | movFromSeg e sw | movToSeg sw e =>
    simp only [exec, execMovFromSeg, execMovToSeg]
    cases SReg.ofSw sw <;> simp [h]
  | xchgAx | xlat => simp [exec, execXchgAx, execXlat, h]
  | lea g e | lds g e | les g e => cases e <;> simp [exec, execLea, execLds, execLes, h]
  | pushReg | pushSeg | pushRm | pushf => simp [exec, execPushReg, execPushSeg, execPushRm, execPushf, h]
  | popReg | popSeg | popRm | popf => simp [exec, execPopReg, execPopSeg, execPopRm, execPopf, h]
  | lahf | sahf => simp [exec, execLahf, execSahf, h]
  | jmpRel f => cases f <;> simp [exec, execJmpRel, h]
  | jmpRm | jmpFar => simp [exec, execJmpRm, execJmpFar, h]
  | jo | jno | jb | jnb | jz | jnz | jbe | ja | js | jns | jpe | jpo | jl | jge | jle | jg | jcxz =>
    exact answersSound_next.2 (memSound_jumpIf h _ _)
  | loop | loopz | loopnz => exact answersSound_next.2 (memSound_jumpIf ((memSound_setReg16 s _ _).2 h) _ _)
  | callRel | callRm | callFar =>
    simp [exec, execCallRel, execCallRm, execCallFar, State.callNear, State.callTo, h]
  | jmpFarMem e | callFarMem e => cases e <;> simp [exec, execJmpFarMem, execCallFarMem, State.callTo, h]
  | ret | retImm | retf | retfImm =>
    simp [exec, execRet, execRetImm, execRetf, execRetfImm, State.releaseStack, State.popIp, State.popCs, h]
  | int | int3 | iret => simp [exec, execInt, execInt3, execIret, State.interruptReturn, h]
  | into => simp only [exec, execInto]; split_ifs <;> simp [h]
  | movsb | movsw | cmpsb | cmpsw | scasb | scasw | lodsb | lodsw | stosb | stosw =>
    refine answersSound_next.2 (memSound_stringStep h (fun u hu => ?_) _)
    simp [movsbElement, movswElement, cmpsbElement, cmpswElement, scasbElement, scaswElement, lodsbElement,
      lodswElement, stosbElement, stoswElement, State.stepSi, State.stepDi, memSound_subWith, hu]
  | segEs | segCs | segSs | segDs | repz | repnz | lock => exact answersSound_next.2 h
  | clc | stc | cmc | cld | std | cli | sti | nop | wait | esc | hlt => exact answersSound_next.2 h
  | inImm | inDx => exact input_answersSound h _ _ _
  | outImm | outDx => exact answersSound_next.2 (output_memSound h _ _ _)
  | unimplOp | unimplGroup => exact answersSound_refused _

/-! ### The invariant -/

theorem exec_inv {i : Instr} {s t : State} (hi : s.Inv) (h : exec i s = .next t) : t.Inv := by
  obtain ⟨cfg, -, -, clock⟩ := exec_clock h
  exact ⟨cfg ▸ hi.config, (exec_answersSound hi.memSound i t h).2, clock hi.clock⟩

theorem endCycle_inv {s : State} (hi : s.Inv) : s.endCycle.Inv := by
  have dev := DeviceOnly.endCycle s
  exact ⟨dev.cfg ▸ hi.config, (dev.memSound_iff.2 hi.memSound).2, (endCycle_spec s hi.clock).1⟩

/-- Settles O9: the record of the decode and the latches are no part of the invariant, the meaning keeps it, and so does
the end of the cycle. -/
theorem stepKeepsInvariant : Obligations.StepKeepsInvariant := by
  intro s t hi h
  obtain rfl | ⟨i, u, run, rfl⟩ := next_of_step h
  · exact endCycle_inv hi
  · have decoded : s.recordDecode.Inv := ⟨hi.config, hi.memory, hi.clock⟩
    obtain ⟨config, memory, clock⟩ := exec_inv decoded run
    obtain ⟨ovr, rep, last⟩ := finishStep_eq i u
    rw [last]
    exact endCycle_inv ⟨config, memory, clock⟩

end Sys2Proof.Machine
end

section
/-! The family 60_exceptions.md: entering a trap and returning from it (60_exceptions.md R360, R361, R366, R367). -/

namespace Sys2Proof.Machine

/-! ### Software interrupts (R360; 42_control_transfer.md R238 to R240) -/

theorem interrupted {s : State} (hi : s.Inv) {o : Outcome State} {n : Byte} {ret : Word}
    (run : o = .next (s.trap n ret)) :
    ∃ t w, o = .next t ∧ TrapEntered s t n ret w ∧ ∀ x, t.flags.get x = s.flags.get x := by
  obtain ⟨entered, flags⟩ := trap_entered hi (.refl s []) n ret
  refine ⟨_, _, run, entered, fun x => ?_⟩
  rw [flags]
  cases x <;> rfl

/-- Settles O46: each is the trap entry, which writes no status flag; INTO with OF = 0 moves IP alone. -/
theorem softwareInterruptsTrap : Obligations.SoftwareInterruptsTrap := by
  intro n s hi
  exact ⟨interrupted hi rfl, interrupted hi rfl, fun taken => interrupted hi (if_pos taken),
    fun untaken => ⟨_, if_neg (by simp [untaken]), only_advance s 1, rfl⟩⟩

/-! ### The divide error (R361) -/

theorem divideError {s : State} (hi : s.Inv) {o : Outcome State} {ret : Word}
    (run : o = .next (s.divideFlags.trap 0 ret)) : ∃ t w, o = .next t ∧ TrapEntered s t 0 ret w :=
  ⟨_, _, run, (trap_entered hi (divideFlags_spec s) 0 ret).1⟩

theorem toInt_eq_zero_iff {w : Nat} (v : BitVec w) : v.toInt = 0 ↔ v.toNat = 0 := by
  rw [← BitVec.toInt_zero, BitVec.toInt_inj, ← BitVec.toNat_inj, BitVec.toNat_zero]

/-- Settles O24: each condition is the one under which the meaning frees the status flags and enters trap 0. -/
theorem divideErrorTraps : Obligations.DivideErrorTraps := by
  intro e8 e16 s hi
  dsimp only
  rw [signedOf_dest8, signedOf_dest16, ← toNat_dxAx, read_dest8, read_dest16, signedOf_toNat, signedOf_toNat]
  refine ⟨?divByte, ?divWord, ?idivByte, ?idivWord, divideError hi rfl⟩
  case divByte => exact fun error => divideError hi (if_pos error)
  case divWord => exact fun error => divideError hi (if_pos error)
  case idivByte =>
    intro error
    have error := error.imp_left (toInt_eq_zero_iff _).2
    exact divideError hi (if_pos error)
  case idivWord =>
    intro error
    have error := error.imp_left (toInt_eq_zero_iff _).2
    exact divideError hi (if_pos error)

/-! ### IRET after INT (R366, R367) -/

/-- Linear addresses less than MEM_SIZE apart are different cells. -/
theorem State.index_ne_of_near (s : State) {a b : Nat} (lt : a < b) (near : b < a + s.cfg.memSize) :
    s.index b ≠ s.index a := by
  intro same
  have multiple : s.cfg.memSize ∣ b - a := (Nat.modEq_iff_dvd' lt.le).1 (Eq.symm same)
  have := Nat.le_of_dvd (by omega) multiple
  omega

/-- A word stored below another one, and not so far that the cells wrap to it, leaves it. -/
theorem State.memRead16_memWrite16_below (s : State) {a b : Nat} (v : Word) (wf : s.mem.wf = true) (below : a + 2 ≤ b)
    (near : b + 1 < a + s.cfg.memSize) : (s.memWrite16 a v).memRead16 b = s.memRead16 b := by
  unfold State.memRead16
  rw [State.memRead8_memWrite16 s a b v wf, State.memRead8_memWrite16 s a (b + 1) v wf,
    if_neg (s.index_ne_of_near (by omega) (by omega)), if_neg (s.index_ne_of_near (by omega) (by omega)),
    if_neg (s.index_ne_of_near (by omega) (by omega)), if_neg (s.index_ne_of_near (by omega) (by omega))]

theorem State.Inv.memSize_ge {s : State} (hi : s.Inv) : 1024 ≤ s.cfg.memSize := by
  have valid := hi.config
  simp only [Config.valid, Bool.and_eq_true, decide_eq_true_eq] at valid
  omega

/-- Three words stored one below the other read back. -/
theorem stacked_words {s : State} (hi : s.Inv) (a : Nat) (v w x : Word) :
    let t := ((s.memWrite16 (a + 4) v).memWrite16 (a + 2) w).memWrite16 a x
    t.memRead16 a = x ∧ t.memRead16 (a + 2) = w ∧ t.memRead16 (a + 4) = v := by
  have size := hi.memSize_ge
  have first := hi.memWrite16 (a + 4) v
  have second := first.memWrite16 (a + 2) w
  have top := State.memRead16_memWrite16 s (a + 4) v hi.memory.1 hi.two
  have middle := State.memRead16_memWrite16 _ (a + 2) w first.memory.1 first.two
  refine ⟨State.memRead16_memWrite16 _ a x second.memory.1 second.two, ?_, ?_⟩
  · exact (State.memRead16_memWrite16_below _ x second.memory.1 le_rfl (by simp; omega)).trans middle
  · refine (State.memRead16_memWrite16_below _ x second.memory.1 (by omega) (by simp; omega)).trans ?_
    exact (State.memRead16_memWrite16_below _ w first.memory.1 le_rfl (by simp; omega)).trans top

/-- After a trap entry in a state without override latch, whose stack does not wrap, the stack holds the return offset,
CS and the FLAGS image, from its top on. -/
theorem TrapEntered.stack {s t : State} {n : Byte} {ret image : Word} (h : TrapEntered s t n ret image) (hi : s.Inv)
    (override : s.ovr = none) (room : 6 ≤ (s.reg16 .sp).toNat) :
    t.memRead16 (t.stackAddress (s.reg16 .sp - 6)) = ret ∧
      t.memRead16 (t.stackAddress (s.reg16 .sp - 4)) = s.sreg .cs ∧
      t.memRead16 (t.stackAddress (s.reg16 .sp - 2)) = image := by
  have same (off : Word) : t.stackAddress off = s.stackAddress off := by
    simp only [State.stackAddress, State.seg2abs, h.system.ovr, override, Option.getD_none, h.segs .ss (by decide)]
  have slot (k : Nat) (hk : k ≤ 6) :
      s.stackAddress (s.reg16 .sp - BitVec.ofNat 16 k) = (s.sreg .ss).toNat * 16 + ((s.reg16 .sp).toNat - k) := by
    have value : (BitVec.ofNat 16 k).toNat = k := Nat.mod_eq_of_lt (by omega)
    rw [State.stackAddress, seg2abs_of_no_override override,
      BitVec.toNat_sub_of_le (BitVec.le_def.2 (by omega)), value]
  have slot2 : s.stackAddress (s.reg16 .sp - 2) = _ := slot 2 (by decide)
  have slot4 : s.stackAddress (s.reg16 .sp - 4) = _ := slot 4 (by decide)
  have slot6 : s.stackAddress (s.reg16 .sp - 6) = _ := slot 6 (by decide)
  have middle : s.stackAddress (s.reg16 .sp - 4) = s.stackAddress (s.reg16 .sp - 6) + 2 := by omega
  have bottom : s.stackAddress (s.reg16 .sp - 2) = s.stackAddress (s.reg16 .sp - 6) + 4 := by omega
  have reads (a : Nat) := congrArg₂ wordOfBytes (h.pushes a) (h.pushes (a + 1))
  rw [middle, bottom] at reads
  obtain ⟨top, cs, flags⟩ := stacked_words hi (s.stackAddress (s.reg16 .sp - 6)) image (s.sreg .cs) ret
  rw [same, same, same, middle, bottom]
  exact ⟨(reads _).trans top, (reads _).trans cs, (reads _).trans flags⟩

/-- Settles O48: IRET pops the three words the trap entry pushed. -/
theorem interruptReturnUndoesInterrupt : Obligations.InterruptReturnUndoesInterrupt := by
  intro n s t u hi override room interrupt back
  obtain ⟨entered, masked⟩ := trap_entered hi (.refl s []) n (s.nextIp 2)
  cases interrupt
  obtain ⟨top, cs, image⟩ := entered.stack hi override room
  obtain ⟨v, run, ip, csLoaded, spMoved, carried, regs, segs, -, -⟩ := interruptReturnResult (s.trap n (s.nextIp 2))
  cases run.symm.trans back
  generalize s.trap n (s.nextIp 2) = t at *
  have popped (k : Word) : t.reg16 .sp + k = s.reg16 .sp - (6 - k) := by
    rw [entered.sp]
    ring
  have flagsSlot (v : Word) (off : Word) : (t.setSReg .cs v).stackAddress off = t.stackAddress off := by
    simp [State.stackAddress, State.seg2abs, entered.system.ovr, override]
  rw [popped 2] at csLoaded
  rw [flagsSlot, popped 4] at carried
  refine ⟨?ip, ?segs, ?regs, ?flags⟩
  case ip =>
    rw [ip, State.stackTop, entered.sp]
    exact top
  case segs =>
    intro r
    by_cases hr : r = .cs
    · rw [hr, csLoaded]
      exact cs
    · rw [segs r hr, entered.segs r hr]
  case regs =>
    intro r
    by_cases hr : r = .sp
    · rw [hr, spMoved, popped 6, sub_self, sub_zero]
    · rw [regs r hr, entered.regs r hr]
  case flags =>
    rw [← ofWord_of_carriesFlags carried]
    exact (congrArg Flags.ofWord image).trans (ofWord_of_carriesFlags (image_carriesFlags _ _))

end Sys2Proof.Machine
end

section
/-! The family 60_exceptions.md: ports, as IN and OUT reach them, and the reads of a count port (60_exceptions.md R395,
R402, R403, R406; 45_prefix_flag_io_misc.md R330 to R333). -/

namespace Sys2Proof.Machine

/-! ### IN and OUT at a port -/

theorem exec_inImm (w : Width) (p : Byte) (s : State) :
    exec (.inImm w p) s = s.input w (BitVec.ofNat 16 p.toNat) 2 := by
  rw [BitVec.ofNat_toNat]
  rfl

theorem exec_inDx (w : Width) (s : State) : exec (.inDx w) s = s.input w (s.reg16 .dx) 1 := rfl

theorem exec_outImm (w : Width) (p : Byte) (s : State) :
    exec (.outImm w p) s = .next (s.output w (BitVec.ofNat 16 p.toNat) 2) := by
  rw [BitVec.ofNat_toNat]
  rfl

theorem exec_outDx (w : Width) (s : State) : exec (.outDx w) s = .next (s.output w (s.reg16 .dx) 1) := rfl

/-- A word write is the write of its low byte (R401, D45). -/
theorem output_eq (s : State) (w : Width) (port : Word) (len : Nat) :
    s.output w port len = (s.portWrite8 port (s.reg8 .al)).advance len := by
  cases w <;> rfl

section TimerPorts

variable {s : State} {p : Byte} {w : Width} {k : Nat} {i : Instr} {len : Nat}

/-- An IN at the timer's port `k`, immediate or DX. -/
theorem exec_in_timerPort (h : (i = .inImm w p ∧ len = 2 ∧ s.timerPort (BitVec.ofNat 16 p.toNat) k) ∨
    (i = .inDx w ∧ len = 1 ∧ s.timerPort (s.reg16 .dx) k)) :
    ∃ port, portMap s.cfg port = portOf k ∧ exec i s = s.input w port len := by
  obtain ⟨rfl, rfl, at_⟩ | ⟨rfl, rfl, at_⟩ := h
  · exact ⟨_, portMap_of_timerPort at_, exec_inImm w p s⟩
  · exact ⟨_, portMap_of_timerPort at_, exec_inDx w s⟩

/-- An OUT at the timer's port `k`, immediate or DX. -/
theorem exec_out_timerPort (h : (i = .outImm w p ∧ len = 2 ∧ s.timerPort (BitVec.ofNat 16 p.toNat) k) ∨
    (i = .outDx w ∧ len = 1 ∧ s.timerPort (s.reg16 .dx) k)) :
    ∃ port, portMap s.cfg port = portOf k ∧ exec i s = .next ((s.portWrite8 port (s.reg8 .al)).advance len) := by
  obtain ⟨rfl, rfl, at_⟩ | ⟨rfl, rfl, at_⟩ := h
  · exact ⟨_, portMap_of_timerPort at_, by rw [exec_outImm, output_eq]⟩
  · exact ⟨_, portMap_of_timerPort at_, by rw [exec_outDx, output_eq]⟩

end TimerPorts

theorem portOf_count {k : Nat} {c : Channel} (h : (k, c) ∈ [(0, Channel.ch0), (1, .ch1), (2, .ch2)]) :
    portOf k = some (.count c) := by
  simp only [List.mem_cons, Prod.mk.injEq, List.not_mem_nil, or_false] at h
  obtain ⟨rfl, rfl⟩ | ⟨rfl, rfl⟩ | ⟨rfl, rfl⟩ := h <;> rfl

/-! ### Unclaimed ports (R395) -/

section Unclaimed

variable {s : State} {port : Word} (h : s.unclaimed port) (w : Width) (len : Nat)

include h

theorem input_unclaimed : ∃ t, s.input w port len = .next t ∧ Received s t w 0xFFFF len := by
  have unmapped := portMap_of_unclaimed h
  cases w with
  | byte =>
    refine ⟨(s.setReg8 .al 0xFF).advance len, ?_, (FlagsOnly.refl s []).wrote_reg8 .al _ len⟩
    simp only [State.input, State.portRead8, unmapped]
  | word =>
    refine ⟨(s.setReg16 .ax 0xFFFF).advance len, ?_, (FlagsOnly.refl s []).wrote_reg16 .ax _ len⟩
    simp only [State.input, State.portRead16, unmapped]

theorem output_unclaimed : s.output w port len = s.advance len := by
  rw [output_eq]
  simp only [State.portWrite8, portMap_of_unclaimed h]

end Unclaimed

/-- Settles O54: at an unmapped port a read answers all ones and a write leaves the state. -/
theorem unclaimedPortsAreBenign : Obligations.UnclaimedPortsAreBenign := by
  intro p w s
  rw [exec_inImm, exec_outImm, exec_inDx, exec_outDx]
  constructor
  · intro free
    rw [output_unclaimed free]
    exact ⟨input_unclaimed free w 2, _, rfl, only_advance s 2, rfl⟩
  · intro free
    rw [output_unclaimed free]
    exact ⟨input_unclaimed free w 1, _, rfl, only_advance s 1, rfl⟩

/-! ### A count read (R402) -/

/-- The byte of a count that a read selects: the high one in mode "MSB", and second in mode "LSB then MSB". -/
def PitChannel.selected (c : PitChannel) (count : Word) : Byte :=
  if c.rl = .msb ∨ (c.rl = .lsbMsb ∧ c.readSeq = true) then hiByte count else loByte count

/-- The channel after a read of a latched count in a mode other than "latch". -/
def PitChannel.latchedRead (c : PitChannel) : PitChannel :=
  { c with
    latchValid := decide (c.rl = .lsbMsb ∧ c.readSeq = false)
    readSeq := if c.rl = .lsbMsb then !c.readSeq else c.readSeq }

theorem readCount_latched {s : State} {c : Channel} (valid : (s.pit.channel c).latchValid = true)
    (mode : (s.pit.channel c).rl ≠ .latch) :
    s.readCount c = (s.setChannel c (s.pit.channel c).latchedRead).drawCountByte
      ((s.pit.channel c).selected (s.pit.channel c).latched) := by
  unfold State.readCount PitChannel.latchedRead PitChannel.selected
  simp only [valid, if_true]
  cases rl : (s.pit.channel c).rl with
  | latch => exact absurd rl mode
  | lsb => simp
  | msb => simp
  | lsbMsb => cases seq : (s.pit.channel c).readSeq <;> simp

theorem PitChannel.selected_eq (c : PitChannel) (count : Word) :
    c.selected count = BitVec.ofNat 8
      (if c.rl = .msb ∨ (c.rl = .lsbMsb ∧ c.readSeq = true) then count.toNat / 256 else count.toNat % 256) := by
  unfold PitChannel.selected
  rw [← toNat_hiByte, ← toNat_loByte]
  split_ifs <;> rw [BitVec.ofNat_toNat, BitVec.setWidth_eq]

/-- Settles O55: the byte that arrives is a draw after the channel's update, written to AL alone. -/
theorem latchedCountIsRead : Obligations.LatchedCountIsRead := by
  intro s p k c hk ch valid mode i len hi second selected
  obtain ⟨port, mapped, run⟩ := exec_in_timerPort hi
  rw [portOf_count hk] at mapped
  have drawn := FlagsOnly.draw (s.setChannel c ch.latchedRead) []
  have answer := drawn.wrote_reg8 .al (Config.countByte s.draws (ch.selected ch.latched)) len
  rw [PitChannel.selected_eq] at answer
  refine ⟨_, run.trans ?_, answer⟩
  rw [← PitChannel.selected_eq]
  simp only [State.input, State.portRead8, mapped, readCount_latched valid mode]
  rfl

/-! ### A read at either width (R402, R403) -/

/-- An IN from a count port is the count read, some draws, and a write of AX, at byte width of its low half. -/
theorem input_count {s : State} {port : Word} {c : Channel} (mapped : portMap s.cfg port = some (.count c)) (w : Width)
    (len : Nat) : ∃ n v, s.input w port len = .next ((((s.readCount c).2.setDraws n).setReg16 .ax v).advance len) ∧
      (w = .byte → hiByte v = s.reg8 .ah) := by
  cases w with
  | byte =>
    refine ⟨(s.readCount c).2.draws, wordOfBytes (s.readCount c).1 ((s.readCount c).2.reg8 .ah), ?_, fun _ => ?_⟩
    · simp only [State.input, State.portRead8, mapped]
      rfl
    · rw [hiByte_wordOfBytes]
      exact State.reg8_congr (DeviceOnly.readCount s c).1.regs .ah
  | word =>
    refine ⟨(s.readCount c).2.draws + 1, (s.readCount c).2.drawWord.1, ?_, nofun⟩
    simp only [State.input, State.portRead16, mapped]
    rfl

/-- Settles O56: an IN is a count read, which is everything it does but for AX and IP; an OUT changes the device
side. -/
theorem timerPortAccessCompletes : Obligations.TimerPortAccessCompletes := by
  intro s p w k
  refine ⟨?reads, fun _ => ⟨fun _ => ?immediate, fun _ => ?dx⟩⟩
  case reads =>
    intro c hk ch i len hi
    obtain ⟨port, mapped, run⟩ := exec_in_timerPort hi
    rw [portOf_count hk] at mapped
    obtain ⟨n, v, input, high⟩ := input_count mapped w len
    obtain ⟨dev, clock⟩ := DeviceOnly.readCount s c
    obtain ⟨video, wall, kept, others, channel⟩ := readCount_spec s c
    generalize (s.readCount c).2 = u at *
    have written : Only (u.setDraws n) (((u.setDraws n).setReg16 .ax v).advance len) [.ax] [] [] [] :=
      (only_setReg16 _ .ax v).advance len
    have system := written.system
    exact ⟨_, run.trans input, high,
      fun r hr => (written.regs r (by simpa)).trans (State.reg16_congr dev.regs r),
      fun r => (written.segs r (by simp)).trans (State.sreg_congr dev.sregs r),
      dev.flags,
      fun a => (written.bytes a (by simp)).trans (State.memRead8_congr dev.mem dev.cfg a),
      system.halted.trans dev.halted, system.clock.trans clock,
      advance_ip ((State.setReg16_ip _ .ax v).trans dev.ip) len,
      system.cfg.trans dev.cfg, system.ovr.trans dev.ovr, system.rep.trans dev.rep,
      system.lastDecode.trans dev.lastDecode, system.video.trans video, wall.trans system.wallNS.ge,
      fun h => system.wallNS.trans (kept h), fun x hx => (congrArg (Pit.channel · x) system.pit).trans (others x hx),
      (congrArg (Pit.channel · c) system.pit).trans channel⟩
  case immediate =>
    rw [exec_outImm, exec_outImm, output_eq, output_eq]
    exact ⟨_, rfl, (DeviceOnly.portWrite8 s _ _).adv 2, rfl⟩
  case dx =>
    rw [exec_outDx, exec_outDx, output_eq, output_eq]
    exact ⟨_, rfl, (DeviceOnly.portWrite8 s _ _).adv 1, rfl⟩

end Sys2Proof.Machine
end

section
/-! The family 60_exceptions.md: control words (60_exceptions.md R401, R404, R406). -/

namespace Sys2Proof.Machine

/-! ### One channel written -/

theorem channel_setChannel_self (s : State) (c : Channel) (v : PitChannel) : (s.setChannel c v).pit.channel c = v :=
  (State.channel_setChannel s c c v).trans (if_pos rfl)

theorem channel_setChannel_of_ne (s : State) {c x : Channel} (h : x ≠ c) (v : PitChannel) :
    (s.setChannel c v).pit.channel x = s.pit.channel x :=
  (State.channel_setChannel s c x v).trans (if_neg h)

/-! ### The fields of a control word (R401) -/

theorem channel_ofBits {v : Byte} {k : Nat} {c : Channel} (h : (k, c) ∈ [(0, Channel.ch0), (1, .ch1), (2, .ch2)])
    (named : v.toNat / 64 = k) : Channel.ofBits (v.extractLsb' 6 2) = some c := by
  have field : (v.extractLsb' 6 2).toNat = v.toNat / 64 % 4 := toNat_field v 6 2
  unfold Channel.ofBits
  rw [field, named]
  simp only [List.mem_cons, Prod.mk.injEq, List.not_mem_nil, or_false] at h
  obtain ⟨rfl, rfl⟩ | ⟨rfl, rfl⟩ | ⟨rfl, rfl⟩ := h <;> rfl

theorem readLoad_ofBits : ∀ {b : BitVec 2}, b.toNat ≠ 0 →
    ReadLoad.ofBits b = if b.toNat = 1 then .lsb else if b.toNat = 2 then .msb else .lsbMsb := by
  decide

theorem writeControl_eq {s : State} {v : Byte} {c : Channel} (named : Channel.ofBits (v.extractLsb' 6 2) = some c) :
    s.writeControl v = if v.toNat / 16 % 4 = 0 then s.latchCount c else s.programChannel c v := by
  have field : (v.extractLsb' 4 2).toNat = v.toNat / 16 % 4 := toNat_field v 4 2
  simp only [State.writeControl, named, field]

/-! ### The latch command (R401, R406) -/

theorem period_binary {c : PitChannel} (h : c.bcd = false) :
    c.period = if c.reload.toNat = 0 then 65536 else c.reload.toNat := by
  have zero : c.reload = 0 ↔ c.reload.toNat = 0 := by simp [← BitVec.toNat_inj]
  simp only [PitChannel.period, countOf, h, zero, Bool.false_eq_true, if_false]

/-- The live binary count: the period less the turns gone, modulo 2^16 (R406). -/
theorem toNat_liveAt {c : PitChannel} (h : c.bcd = false) (periodNS t : Rat) :
    ((c.liveAt periodNS t).toNat : Int) =
      ((c.period : Int) - ((t - c.lastSet) / periodNS).floor % c.period) % 65536 := by
  have positive : 0 < c.period := by rw [period_binary h]; split <;> omega
  have lower := Int.emod_nonneg ((t - c.lastSet) / periodNS).floor (show (c.period : Int) ≠ 0 by omega)
  have upper := Int.emod_lt_of_pos ((t - c.lastSet) / periodNS).floor (show (0 : Int) < c.period by omega)
  simp only [PitChannel.liveAt, contentOf, h, Bool.false_eq_true, if_false, BitVec.toNat_ofNat]
  omega

theorem liveCount_running {s : State} {c : Channel} (h : (s.pit.channel c).running = true) :
    s.liveCount c = ((s.pit.channel c).liveAt s.cfg.pitPeriodNS s.now.1, s.now.2) := by
  simp [State.liveCount, h]

theorem latchCount_eq (s : State) (c : Channel) : s.latchCount c = (s.liveCount c).2.setChannel c
    { s.pit.channel c with latched := (s.liveCount c).1, latchValid := true } := by
  rw [← (liveCount_spec s c).1]
  rfl

/-- Everything the latch command does to the device side. -/
theorem latchCount_spec (s : State) (c x : Channel) :
    (s.latchCount c).clock = s.clock ∧ (s.latchCount c).wallNS = (s.liveCount c).2.wallNS ∧
      (s.latchCount c).pit.channel x =
        if x = c then { s.pit.channel c with latched := (s.liveCount c).1, latchValid := true }
        else s.pit.channel x := by
  obtain ⟨pit, clock, -⟩ := liveCount_spec s c
  rw [latchCount_eq, State.channel_setChannel, pit]
  exact ⟨clock, rfl, rfl⟩

/-! ### Programming (R401, R404) -/

theorem mem_eraseChannel {c : Channel} {ts : List Timer} {tm : Timer} :
    tm ∈ eraseChannel c ts ↔ tm ∈ ts ∧ tm.callback ≠ .pit c := by
  simp [eraseChannel]

/-- The channel that a control word leaves, by its fields. -/
def PitChannel.programmed (ch : PitChannel) (table : PitTable) (v : Byte) : PitChannel :=
  { ch with
    rl := ReadLoad.ofBits (v.extractLsb' 4 2)
    mode := PitMode.ofBits (v.extractLsb' 1 3)
    bcd := v.getLsbD 0
    writeSeq := false
    readSeq := false
    running := false
    output := (pitRow table (PitMode.ofBits (v.extractLsb' 1 3))).initialOutput
    phase := .unloaded }

theorem programChannel_spec (s : State) (c x : Channel) (v : Byte) :
    (s.programChannel c v).pit.channel x =
      if x = c then (s.pit.channel c).programmed s.cfg.pitTable v else s.pit.channel x :=
  State.channel_setChannel s c x _

/-- Settles O57: the control port's write is one of the two commands, by the read/load bits; each is a write of one
channel, and programming also erases its timers. -/
theorem controlWordProgramsChannel : Obligations.ControlWordProgramsChannel := by
  intro s p w k c hk v ch n named i len hi
  obtain ⟨port, mapped, run⟩ := exec_out_timerPort hi
  have control : s.portWrite8 port (s.reg8 .al) = s.writeControl (s.reg8 .al) := by
    simp only [State.portWrite8, mapped, portOf]
  have same := (DeviceOnly.portWrite8 s port (s.reg8 .al)).adv len
  rw [control, writeControl_eq (channel_ofBits hk named)] at run same
  refine ⟨_, run, same, ?others, ?program, ?latch⟩
  case others =>
    intro x hx
    split_ifs
    · exact (latchCount_spec s c x).2.2.trans (if_neg hx)
    · exact (programChannel_spec s c x _).trans (if_neg hx)
  case program =>
    intro hrl
    rw [if_neg hrl]
    refine ⟨?channel, fun tm pending => (mem_eraseChannel.1 pending).2,
      fun tm other => mem_eraseChannel.trans (and_iff_left other), rfl⟩
    refine (programChannel_spec s c c _).trans ((if_pos rfl).trans ?_)
    have rl : (BitVec.extractLsb' 4 2 (s.reg8 .al)).toNat = v / 16 % 4 := toNat_field _ 4 2
    have mode : (BitVec.extractLsb' 1 3 (s.reg8 .al)).toNat = v / 2 % 8 := toNat_field _ 1 3
    have bcd : (s.reg8 .al).getLsbD 0 = decide (v % 2 = 1) := Nat.testBit_zero _
    rw [← rl] at hrl
    rw [← rl, ← mode, PitChannel.programmed, readLoad_ofBits hrl]
    generalize BitVec.extractLsb' 1 3 (s.reg8 .al) = m
    rw [bcd]
    cases m using octal_cases <;> rfl
  case latch =>
    intro hrl
    rw [if_pos hrl]
    obtain ⟨clock, wall, channel⟩ := latchCount_spec s c c
    refine ⟨clock, _, channel.trans (if_pos rfl), fun stopped => ?_, fun running => ?_⟩
    · have stored : s.liveCount c = (ch.counter, s) := if_neg (ne_true_of_eq_false stopped)
      exact ⟨congrArg Prod.fst stored, wall.trans (congrArg (·.2.wallNS) stored)⟩
    · refine ⟨(liveCount_spec s c).2.2.trans wall.ge, fun binary => ?_⟩
      have value : (s.liveCount c).1 = ch.liveAt s.cfg.pitPeriodNS (s.latchCount c).wallNS := by
        rw [wall, liveCount_running running]
        rfl
      have count := toNat_liveAt binary s.cfg.pitPeriodNS (s.latchCount c).wallNS
      rwa [period_binary binary, ← value] at count

end Sys2Proof.Machine
end

section
/-! The family 60_exceptions.md: the bytes of a reload, and the timer a completed one arms (60_exceptions.md R384, R388,
R400, R401). -/

namespace Sys2Proof.Machine

/-! ### The reload value (R401) -/

theorem wordOfBytes_eq (lo hi : Byte) : wordOfBytes lo hi = BitVec.ofNat 16 (lo.toNat + hi.toNat * 256) := by
  apply BitVec.eq_of_toNat_eq
  have := lo.isLt
  have := hi.isLt
  rw [toNat_wordOfBytes, BitVec.toNat_ofNat]
  omega

/-- The value a completing byte gives the reload. -/
def PitChannel.reloadWith (ch : PitChannel) (v : Nat) : Nat :=
  if ch.rl = .lsb then v else if ch.rl = .msb then v * 256 else ch.reload.toNat % 256 + v * 256

/-- The channel with a completed reload value, before it is taken. -/
def PitChannel.completed (ch : PitChannel) (v : Nat) : PitChannel :=
  { ch with
    reload := BitVec.ofNat 16 (ch.reloadWith v)
    writeSeq := if ch.rl = .lsbMsb then false else ch.writeSeq }

/-- The first byte of LSB then MSB sets the low half. -/
theorem writeCount_first {s : State} {c : Channel} (v : Byte) (mode : (s.pit.channel c).rl = .lsbMsb)
    (first : (s.pit.channel c).writeSeq = false) : s.writeCount c v = s.setChannel c
      { s.pit.channel c with
        reload := BitVec.ofNat 16 ((s.pit.channel c).reload.toNat / 256 * 256 + v.toNat), writeSeq := true } := by
  rw [add_comm, ← toNat_hiByte, ← wordOfBytes_eq]
  simp [State.writeCount, mode, first]

/-- Every other byte completes the reload. -/
theorem writeCount_completing {s : State} {c : Channel} (v : Byte) (mode : (s.pit.channel c).rl ≠ .latch)
    (completes : ¬ ((s.pit.channel c).rl = .lsbMsb ∧ (s.pit.channel c).writeSeq = false)) :
    s.writeCount c v = (s.setChannel c ((s.pit.channel c).completed v.toNat)).completeReload c := by
  unfold State.writeCount PitChannel.completed PitChannel.reloadWith
  cases rl : (s.pit.channel c).rl with
  | latch => exact absurd rl mode
  | lsb => simp [rl, wordOfBytes_eq]
  | msb => simp [rl, wordOfBytes_eq]
  | lsbMsb =>
    have second : (s.pit.channel c).writeSeq = true := by simpa [rl] using completes
    simp [rl, second, wordOfBytes_eq, toNat_loByte]

/-! ### Completing a reload (R401, R388) -/

theorem filter_eraseChannel (c : Channel) (ts : List Timer) :
    (eraseChannel c ts).filter (fun tm => decide (tm.callback = .pit c)) = [] := by
  simp [eraseChannel]

/-- The channel once its reload is complete, at the time read. -/
def PitChannel.reloaded (ch : PitChannel) (now : Rat) : PitChannel :=
  { ch with lastSet := now, counter := ch.reload, running := ch.gate, phase := .awaiting }

/-- The first part of `complete`: the time is read, the count taken, the pending timer removed. -/
def State.takeReload (s : State) (c : Channel) : State :=
  (s.now.2.setChannel c ((s.pit.channel c).reloaded s.now.1)).removeChannelTimer c

theorem completeReload_eq (s : State) (c : Channel) : s.completeReload c =
    if (s.pit.channel c).gate then
      ((s.takeReload c).now.2.addTimer
        ((s.takeReload c).now.1 + s.cfg.pitPeriodNS * (s.pit.channel c).period) (.pit c)).2
    else s.takeReload c := rfl

/-- Everything `complete` does: the count is taken, and with the gate high a second reading of the clock, not before the
first, arms the channel's timer. -/
theorem completeReload_spec (s : State) (c : Channel) :
    ∃ now later, s.wallNS ≤ now ∧ now ≤ later ∧
      (s.completeReload c).wallNS = (if (s.pit.channel c).gate then later else now) ∧
      (∀ x, (s.completeReload c).pit.channel x =
        if x = c then (s.pit.channel c).reloaded now else s.pit.channel x) ∧
      (s.completeReload c).clock.timers =
        if (s.pit.channel c).gate then
          insertTimer { trigger := later + s.cfg.pitPeriodNS * (s.pit.channel c).period, callback := .pit c }
            (eraseChannel c s.clock.timers)
        else eraseChannel c s.clock.timers := by
  have taken (x : Channel) : (s.takeReload c).pit.channel x =
      if x = c then (s.pit.channel c).reloaded s.now.1 else s.pit.channel x :=
    State.channel_setChannel s.now.2 c x _
  refine ⟨s.now.1, (s.takeReload c).now.1, (ClockKept.now s).wall, (ClockKept.now (s.takeReload c)).wall, ?_⟩
  rw [completeReload_eq]
  split_ifs
  · exact ⟨rfl, taken, rfl⟩
  · exact ⟨rfl, taken, rfl⟩

theorem PitChannel.period_completed {ch : PitChannel} (binary : ch.bcd = false) (v : Byte) :
    (ch.completed v.toNat).period = if ch.reloadWith v.toNat = 0 then 65536 else ch.reloadWith v.toNat := by
  have fits : ch.reloadWith v.toNat < 65536 := by
    have := v.isLt
    unfold PitChannel.reloadWith
    split_ifs <;> omega
  have value : (ch.completed v.toNat).reload.toNat = ch.reloadWith v.toNat := Nat.mod_eq_of_lt fits
  rw [period_binary (show (ch.completed v.toNat).bcd = false from binary), value]

/-- A channel's pending timers after a reload: the new one alone, if there is one. -/
theorem pending_of_armed {c : Channel} {ts armed : List Timer} {gate : Bool} {trigger : Rat}
    (h : armed = if gate then insertTimer { trigger := trigger, callback := .pit c } (eraseChannel c ts)
      else eraseChannel c ts) :
    (armed.filter fun tm => decide (tm.callback = .pit c)) =
        (if gate then [{ trigger := trigger, callback := .pit c }] else []) ∧
      ∀ tm, tm.callback ≠ .pit c → (gate = true → tm.trigger ≠ trigger) → (tm ∈ armed ↔ tm ∈ ts) := by
  subst h
  cases gate with
  | true =>
    refine ⟨filter_insertTimer c _ _ rfl (filter_eraseChannel c ts), fun tm other apart => ?_⟩
    exact (mem_insertTimer_iff _ _ tm (apart rfl)).trans (mem_eraseChannel.trans (and_iff_left other))
  | false => exact ⟨filter_eraseChannel c ts, fun tm other _ => mem_eraseChannel.trans (and_iff_left other)⟩

/-- Settles O58: the first byte of a pair is one write of the channel; a completing one is that and then `complete`. -/
theorem reloadArmsChannelTimer : Obligations.ReloadArmsChannelTimer := by
  intro s p w k c hk ch v n i len hi mode
  obtain ⟨port, mapped, run⟩ := exec_out_timerPort hi
  rw [portOf_count hk] at mapped
  have count : s.portWrite8 port (s.reg8 .al) = s.writeCount c (s.reg8 .al) := by
    simp only [State.portWrite8, mapped]
  have same := (DeviceOnly.portWrite8 s port (s.reg8 .al)).adv len
  rw [count] at run same
  by_cases first : ch.rl = .lsbMsb ∧ ch.writeSeq = false
  · rw [writeCount_first _ first.1 first.2] at run same
    exact ⟨_, run, same, fun x hx => channel_setChannel_of_ne s hx _,
      fun _ => ⟨rfl, rfl, channel_setChannel_self s c _⟩, fun not => absurd first not⟩
  · have write : s.writeCount c (s.reg8 .al) = (s.setChannel c (ch.completed v)).completeReload c :=
      writeCount_completing _ mode first
    rw [write] at run same
    obtain ⟨now, later, read, again, wall, channels, timers⟩ := completeReload_spec (s.setChannel c (ch.completed v)) c
    have completed : (s.setChannel c (ch.completed v)).pit.channel c = ch.completed v :=
      channel_setChannel_self s c _
    rw [completed] at wall channels timers
    refine ⟨_, run, same, fun x hx => ?others, fun isFirst => absurd isFirst first, fun _ => ?completing⟩
    case others =>
      exact (channels x).trans ((if_neg hx).trans (channel_setChannel_of_ne s hx _))
    case completing =>
      obtain ⟨own, other⟩ := pending_of_armed timers
      refine ⟨now, later, _, read, again, wall, (channels c).trans (if_pos rfl), fun binary => ?_, own, other⟩
      rw [PitChannel.period_completed binary]
      rfl

end Sys2Proof.Machine
end

section
/-! The family 60_exceptions.md: a channel fires, and the scans at which timers fire (60_exceptions.md R364, R381, R383,
R384, R386, R387, R404, R405, R410). -/

namespace Sys2Proof.Machine

/-! ### A channel fires (R405) -/

theorem PitMode.periodic_iff (m : PitMode) : m.periodic = true ↔ m = .rateGenerator ∨ m = .squareWave := by
  cases m <;> simp [PitMode.periodic]

/-- The fields of a channel that firing writes after the output (R405). -/
def PitChannel.afterTerminal (ch : PitChannel) (tf : Rat) : PitChannel :=
  if ch.mode.periodic then { ch with lastSet := tf, counter := ch.reload } else { ch with phase := .past }

/-- Firing is one write of the channel, and in the periodic modes one timer more. -/
theorem fire_eq (s : State) (c : Channel) (tf : Rat) :
    let ch := s.pit.channel c
    let fired := s.setChannel c
      ((ch.terminal (terminalEffect s.cfg.pitTable ch.mode)).afterTerminal tf)
    s.fire c tf =
      if ch.mode.periodic then (fired.addTimer (tf + s.cfg.pitPeriodNS * ch.period) (.pit c)).2 else fired := by
  unfold State.fire PitChannel.afterTerminal
  simp only [PitChannel.terminal_spec]
  split_ifs <;> rfl

theorem fire_pit (s : State) (c : Channel) (tf : Rat) :
    let ch := s.pit.channel c
    (s.fire c tf).pit.channel c = (ch.terminal (terminalEffect s.cfg.pitTable ch.mode)).afterTerminal tf := by
  dsimp only
  rw [fire_eq]
  split_ifs
  · exact channel_setChannel_self s c _
  · exact channel_setChannel_self s c _

/-- Settles O59: the output and its notices are those of terminal count, the rest follows whether the mode is
periodic. -/
theorem squareWaveFires : Obligations.SquareWaveFires := by
  intro s c tf ch n periodic effect
  have isPeriodic : ch.mode.periodic = true ↔ periodic := ch.mode.periodic_iff
  have isEffect : terminalEffect s.cfg.pitTable ch.mode = effect := by
    simp only [effect]
    cases ch.mode <;> rfl
  refine ⟨?channel, ?next, ?once, fun x => fire_other s c x tf, (DeviceOnly.fire s c tf).same⟩
  case channel =>
    rw [fire_pit, isEffect, PitChannel.terminal_spec, PitChannel.afterTerminal]
    by_cases h : periodic
    · rw [if_pos (isPeriodic.2 h)]
      simp only [h, if_true]
      rfl
    · rw [if_neg (mt isPeriodic.1 h)]
      simp only [h, if_false]
      rfl
  case next =>
    intro h
    rw [fire_eq, if_pos (isPeriodic.2 h)]
    refine ⟨_, fun binary => ?_, (mem_insertTimer _ _).1, fun tm apart => mem_insertTimer_iff _ _ tm apart⟩
    rw [period_binary binary]
  case once =>
    intro h
    rw [fire_eq, if_neg (mt isPeriodic.1 h)]
    rfl

end Sys2Proof.Machine
end

section
/-! The family 60_exceptions.md: timers fire at scans only (60_exceptions.md R364, R381, R383, R384, R386, R387, R405,
R410). -/

namespace Sys2Proof.Machine

/-! ### The tick (R381, R386) -/

/-- A tick ends in a scan exactly when its counter is a multiple of TIMER_CHECK_CYCLES. -/
theorem tick_eq_checkTimers {s : State} (h : (s.clock.cycles + 1) % s.cfg.timerCheckCycles = 0) :
    s.tick = (tick2 s).checkTimers := by
  obtain ⟨cycles, cfg, -, -⟩ := tick2_spec s
  rw [tick_eq, cycles, cfg, if_pos h]

theorem tick_eq_tick2 {s : State} (h : (s.clock.cycles + 1) % s.cfg.timerCheckCycles ≠ 0) : s.tick = tick2 s := by
  obtain ⟨cycles, cfg, -, -⟩ := tick2_spec s
  rw [tick_eq, cycles, cfg, if_neg h]

/-! ### What is due (R383) -/

theorem isDue_iff (t half : Rat) (tm : Timer) : isDue t half tm = true ↔ t > tm.trigger ∨ tm.trigger < t + half := by
  simp [isDue]

/-- The timers due at the scan that `s` is about to do. -/
def State.dueTimers (s : State) : List Timer := s.clock.timers.filter (isDue s.now.1 s.halfInterval)

theorem checkTimers_eq (s : State) :
    s.checkTimers = State.fireDue s.now.1 s.dueTimers.length s.dueTimers s.now.2 := rfl

theorem nodup_of_rising {ts : List Timer} (h : timersRising ts = true) : (ts.map (·.trigger)).Nodup :=
  List.pairwise_map.2 ((rising_pairwise ts h).imp ne_of_lt)

theorem dueTimers_nodup {s : State} (h : timersRising s.clock.timers = true) :
    (s.dueTimers.map (·.trigger)).Nodup :=
  nodup_of_rising (filter_rising _ _ h)

/-! ### One due timer alone (R383, R405, R410) -/

theorem fireTimer_of_mem {s : State} {tm : Timer} (h : tm ∈ s.clock.timers) (t : Rat) :
    s.fireTimer t tm = (s.removeTimer tm.trigger).runCallback t tm.callback :=
  if_pos (List.any_eq_true.2 ⟨tm, h, decide_eq_true rfl⟩)

/-- With one timer due the free order leaves no choice. -/
theorem fireDue_singleton (t : Rat) (tm : Timer) (s : State) :
    State.fireDue t 1 [tm] s = (s.setDraws (s.draws + 1)).fireTimer t tm := by
  simp [State.fireDue, Nat.mod_one]

theorem checkTimers_alone {s : State} {tm : Timer} (alone : s.dueTimers = [tm]) :
    s.checkTimers =
      ((s.now.2.setDraws (s.draws + 2)).removeTimer tm.trigger).runCallback s.now.1 tm.callback := by
  have pending : tm ∈ s.clock.timers := List.mem_of_mem_filter (alone ▸ List.mem_singleton_self tm)
  rw [checkTimers_eq, alone, List.length_singleton, fireDue_singleton]
  exact fireTimer_of_mem (s := s.now.2.setDraws (s.draws + 2)) pending s.now.1

/-- A vertical sync hands the renderer one frame, of the configured size, made from the video window. -/
theorem verticalSync_video (s : State) (t : Rat) :
    (s.verticalSync t).video.size = s.video.size ∧ (s.verticalSync t).video.frames = s.video.frames + 1 ∧
      ∃ f, (s.verticalSync t).video.last = some f ∧ f.width = s.cfg.screenWidth ∧ f.height = s.cfg.screenHeight ∧
        f.window = s.videoWindow := by
  have scanned : (s.verticalSync t).video = s.scanVideo.video := by
    unfold State.verticalSync State.armVerticalSync
    split <;> rfl
  rw [scanned]
  exact ⟨rfl, rfl, _, rfl, rfl, rfl, rfl⟩

/-- Settles O60: the due timers are settled before the first callback, and what one callback does to another channel and
to another trigger time is nothing. -/
theorem timersFireAtScansOnly : Obligations.TimersFireAtScansOnly := by
  intro s counted now due
  have isDue' (tm : Timer) : isDue s.now.1 s.halfInterval tm = true ↔ due tm := isDue_iff _ _ tm
  have mem_due (tm : Timer) : tm ∈ s.dueTimers ↔ tm ∈ s.clock.timers ∧ due tm := by
    rw [State.dueTimers, List.mem_filter, isDue']
  refine ⟨(DeviceOnly.tick s).same, (DeviceOnly.checkTimers s).same, ?between, tick_eq_checkTimers, ?untouched,
    ?stays, fun rising => ⟨?fires, ?alone⟩⟩
  case between =>
    intro h
    obtain ⟨-, -, timers, pit⟩ := tick2_spec s
    rw [tick_eq_tick2 h]
    exact ⟨timers, pit⟩
  case untouched =>
    intro c none
    rw [checkTimers_eq, fireDue_other]
    · rfl
    · intro tm h own
      obtain ⟨pending, isDue⟩ := (mem_due tm).1 h
      exact none tm pending own isDue
  case stays =>
    intro tm pending notDue
    rw [checkTimers_eq]
    refine fireDue_pending _ _ _ _ _ (fun tm' h same => notDue ?_) ⟨tm, pending, rfl⟩
    have dueThen := ((mem_due tm').1 h).2
    simpa only [due, same] using dueThen
  case fires =>
    intro c tm pending own isDue only
    rw [checkTimers_eq, fireDue_fires s.now.1 c tm own _ _ s.now.2 rfl ((mem_due tm).2 ⟨pending, isDue⟩) ?_
      (dueTimers_nodup rising) fun x h => ⟨x, ((mem_due x).1 h).1, rfl⟩]
    · exact fire_channel _ _ c _ rfl rfl
    · intro x h own'
      obtain ⟨pending', isDue'⟩ := (mem_due x).1 h
      exact only x pending' own' isDue'
  case alone =>
    intro tm pending isDue only removed
    have alone : s.dueTimers = [tm] := by
      by_contra several
      obtain none | ⟨x, h, apart⟩ := ((dueTimers_nodup rising).of_map.ne_singleton_iff tm).1 several
      · exact List.ne_nil_of_mem ((mem_due tm).2 ⟨pending, isDue⟩) none
      · obtain ⟨pending', isDue'⟩ := (mem_due x).1 h
        exact apart (only x pending' isDue')
    have scan : s.checkTimers = removed.runCallback now tm.callback := checkTimers_alone alone
    refine ⟨fun c own => by rw [scan, own]; rfl, fun own => ?_⟩
    have sync : s.checkTimers = removed.verticalSync now := by rw [scan, own]; rfl
    rw [sync]
    exact ⟨verticalSync_pit removed now, verticalSync_video removed now⟩

end Sys2Proof.Machine
end

section
/-! The family 70_reset_and_hazards.md: the state that construction leaves and the one from which the first cycle starts
(70_reset_and_hazards.md R420, R421, R423; 10_state.md R46; 60_exceptions.md R352, R396). -/

namespace Sys2Proof.Machine

section Start

variable {cfg : Config}

/-! ### Construction (R420; 60_exceptions.md R352) -/

theorem memSize_of_valid (legal : cfg.valid = true) : 1024 ≤ cfg.memSize ∧ cfg.memSize ≤ 1048576 := by
  simp only [Config.valid, Bool.and_eq_true, decide_eq_true_eq] at legal
  omega

theorem construct_of_valid (legal : cfg.valid = true) : construct (some cfg) = .next (State.resetWith cfg) :=
  if_pos legal

theorem construct_of_not_valid (illegal : ¬cfg.valid = true) : construct (some cfg) = .fault .configError :=
  if_neg illegal

/-! ### The constructed state (R421; 10_state.md R46) -/

theorem sreg_resetWith (r : SReg) : (State.resetWith cfg).sreg r = if r = .cs then 0xFFFF else 0 := by
  cases r <;> rfl

theorem flags_resetWith (x : StatusFlag) : (State.resetWith cfg).flags.get x = false := by
  cases x <;> rfl

theorem channel_resetWith (c : Channel) : (State.resetWith cfg).pit.channel c = .reset := by
  cases c <;> rfl

/-- Memory and registry are empty, and every count of the clock is 0. -/
theorem inv_resetWith (legal : cfg.valid = true) : (State.resetWith cfg).Inv where
  config := legal
  memory := ⟨resetWith_mem_wf cfg, rfl⟩
  clock := ⟨le_rfl, le_rfl, le_rfl, rfl⟩

/-! ### Boot (R423; 60_exceptions.md R396) -/

theorem powerOn_of_valid (legal : cfg.valid = true) : powerOn (some cfg) = .next (State.resetWith cfg).boot := by
  rw [powerOn, construct_of_valid legal]

theorem ClockKept.inv {s t : State} (kept : ClockKept s t) (hi : s.Inv) : t.Inv where
  config := kept.dev.cfg ▸ hi.config
  memory := (kept.dev.memSound_iff.2 hi.memSound).2
  clock := kept.clk hi.clock

end Start

/-! ### The statements -/

/-- Settles O10: boot reaches the device side alone and keeps the clock's invariant, so it keeps that of the constructed
state. -/
theorem constructedStateMeetsInvariant : Obligations.ConstructedStateMeetsInvariant := by
  refine ⟨inv_resetWith (by decide), fun cfg legal => ⟨inv_resetWith legal, _, powerOn_of_valid legal, ?_⟩⟩
  have kept := ClockKept.boot (State.resetWith cfg)
  exact ⟨kept.inv (inv_resetWith legal), kept.dev.same, boot_pit _, kept.cyc,
    fun listed => boot_tells_size cfg.devices _ (.inl listed)⟩

/-- Settles O11: a legal configuration is constructed to the reset state, and a memory size out of range is not legal. -/
theorem constructionLeavesSpecifiedValues : Obligations.ConstructionLeavesSpecifiedValues := by
  refine ⟨fun cfg legal => ⟨_, construct_of_valid legal, ?values⟩, rfl, fun cfg outside => ?outside⟩
  case values =>
    refine ⟨rfl, sreg_resetWith .cs, rfl, sreg_resetWith .ds, sreg_resetWith .es, sreg_resetWith .ss, flags_resetWith,
      rfl, rfl, rfl, rfl, rfl, rfl, rfl, rfl, rfl, fun c => ?_⟩
    rw [channel_resetWith, PitChannel.reset]
  case outside =>
    refine construct_of_not_valid fun legal => ?_
    have := memSize_of_valid legal
    omega

end Sys2Proof.Machine
end
